-- ==== Sys2Proof/Word.lean ====
section
/-! DEFINITION. The widths of the values on the command port and in the registers (00_scope.md R7, R9):
every value is unsigned, bit 0 is the least significant bit. -/

namespace Sys2Proof

/-- An 8-bit value: the opcode field `op` (30_encoding.md R50). -/
abbrev U8 := BitVec 8

/-- The spec's `u32`: `OUT_W` bits, a NEXT or BOUNDED output (R7, R9). -/
abbrev U32 := BitVec 32

/-- The spec's `u64`: `STATE_W` bits, a register or an operand field (R7, R9). -/
abbrev U64 := BitVec 64

end Sys2Proof
end

