-- ==== Sys2Proof/Syntax.lean ====
section
/-! DEFINITION. The commands (spec/opcode_table.json, one constructor per row), the transaction that carries one
(30_encoding.md R50), the encoded and the textual listing of a command (R57, R58), and the reasons why decoding
or assembling refuses. -/

namespace Sys2Proof

/-- The two command ports: the CORE block's (R50) and the PCG32-DUAL wrapper's (R130). -/
inductive Port where
  | core
  | dual
  deriving DecidableEq, Repr

/-- The commands of the opcode table with the operands R52 gives each. -/
inductive Instr where
  /-- SEED (40_seed.md R71). -/
  | seed (seed streamSelector : U64)
  /-- NEXT (41_next.md R84). -/
  | next
  /-- BOUNDED (42_bounded.md R104, R105). -/
  | bounded (bound : U32)
  /-- FOOTPRINT (43_query.md R121). -/
  | footprint
  /-- RDSTATE (43_query.md R122). -/
  | rdstate
  /-- RDINC (43_query.md R123). -/
  | rdinc
  /-- DSEED (44_dual_stream.md R133). -/
  | dseed (seed1 seed2 streamSel1 streamSel2 : U64)
  /-- DNEXT (44_dual_stream.md R134). -/
  | dnext
  /-- DBOUNDED (44_dual_stream.md R136, R137). -/
  | dbounded (bound : U64)
  /-- DFOOTPRINT (44_dual_stream.md R138). -/
  | dfootprint
  deriving DecidableEq, Repr

/-- The port whose unit a command belongs to (R53, R54). -/
def Instr.port : Instr → Port
  | .seed _ _ => .core
  | .next => .core
  | .bounded _ => .core
  | .footprint => .core
  | .rdstate => .core
  | .rdinc => .core
  | .dseed _ _ _ _ => .dual
  | .dnext => .dual
  | .dbounded _ => .dual
  | .dfootprint => .dual

/-- One transaction on a command port: the five fields of R50, presented and taken together. -/
structure Command where
  op : U8
  a : U64
  b : U64
  c : U64
  d : U64
  deriving DecidableEq, Repr

/-- A command as an encoded listing shows it (R58): `none` is the listing's `-`, a field the command ignores. -/
structure Listing where
  op : U8
  a : Option U64
  b : Option U64
  c : Option U64
  d : Option U64
  deriving DecidableEq, Repr

/-- Why decoding gives no command: the opcode is reserved on the port it was presented to (R55, R56). -/
inductive DecodeError where
  | reserved (port : Port) (op : U8)
  deriving DecidableEq, Repr

/-- One line of a listing in the assembler's form (R57): a mnemonic with its operands as unsigned literals,
the `RESET` marker, or a line that holds a comment only. -/
inductive AsmLine where
  | seed (seed streamSelector : Nat)
  | next
  | bounded (bound : Nat)
  | footprint
  | rdstate
  | rdinc
  | dseed (seed1 seed2 streamSel1 streamSel2 : Nat)
  | dnext
  | dbounded (bound : Nat)
  | dfootprint
  | reset
  | blank
  deriving DecidableEq, Repr

/-- Why a line does not assemble (R57). -/
inductive AsmError where
  /-- An operand does not fit its width: an error, not a truncation (R57). -/
  | operandTooWide
  /-- The first word is no mnemonic of R57. -/
  | unknownMnemonic
  /-- The mnemonic takes another number of operands (R52, R57). -/
  | operandCount
  /-- An operand is no unsigned decimal or hexadecimal literal (R57). -/
  | badLiteral
  deriving DecidableEq, Repr

end Sys2Proof
end

