-- ==== Sys2Proof/Machine/Operands.lean ====
section
/-! DEFINITION. Operand assembly: how each command takes its operands from the fields `a` to `d`, without sign
extension, scaling or shifting (30_encoding.md R52), and the two width changes of 00_scope.md R10. -/

namespace Sys2Proof.Machine

/-- `trunc32(v)`, `v[31:0]` (R10). -/
def trunc32 (v : U64) : U32 := v.setWidth 32

/-- `zext64(v)`: the low 32 bits are `v`, the high 32 bits are zero (R10). -/
def zext64 (v : U32) : U64 := v.setWidth 64

/-- SEED's operands: `seed = a[63:0]`, `streamSelector = b[63:0]` (R52, R71). -/
def seedOperands (c : Command) : U64 × U64 := (c.a, c.b)

/-- BOUNDED's operand: `bound = a[31:0]`; `a[63:32]` is ignored (R52, R104). -/
def boundedOperand (c : Command) : U32 := trunc32 c.a

/-- DSEED's operands: `seed1`, `seed2`, `streamSel1`, `streamSel2` are `a`, `b`, `c`, `d` in that order (R52, R133). -/
def dseedOperands (c : Command) : U64 × U64 × U64 × U64 := (c.a, c.b, c.c, c.d)

/-- DBOUNDED's operand: `bound = a[63:0]` (R52, R136). -/
def dboundedOperand (c : Command) : U64 := c.a

end Sys2Proof.Machine
end

