-- ==== Sys2Proof/Decode.lean ====
section
/-! DEFINITION. Decoding a transaction (30_encoding.md R51 to R56), total on every value of every field, and after
it the encoder (R53, R54, R58). -/

namespace Sys2Proof

/-- `unit = op[7:4]` (R51). -/
def Command.unit (c : Command) : BitVec 4 := c.op.extractLsb' 4 4

/-- `func = op[3:0]` (R51). -/
def Command.func (c : Command) : BitVec 4 := c.op.extractLsb' 0 4

/-- `decode_core` of R55 with the operands of R52. -/
def decodeCore (c : Command) : Except DecodeError Instr :=
  if c.op = 0x01#8 then .ok (.seed (Machine.seedOperands c).1 (Machine.seedOperands c).2)
  else if c.op = 0x02#8 then .ok .next
  else if c.op = 0x03#8 then .ok (.bounded (Machine.boundedOperand c))
  else if c.op = 0x04#8 then .ok .footprint
  else if c.op = 0x05#8 then .ok .rdstate
  else if c.op = 0x06#8 then .ok .rdinc
  else .error (.reserved .core c.op)

/-- `decode_dual` of R55 with the operands of R52. -/
def decodeDual (c : Command) : Except DecodeError Instr :=
  if c.op = 0x11#8 then
    .ok (.dseed (Machine.dseedOperands c).1 (Machine.dseedOperands c).2.1
      (Machine.dseedOperands c).2.2.1 (Machine.dseedOperands c).2.2.2)
  else if c.op = 0x12#8 then .ok .dnext
  else if c.op = 0x13#8 then .ok (.dbounded (Machine.dboundedOperand c))
  else if c.op = 0x14#8 then .ok .dfootprint
  else .error (.reserved .dual c.op)

/-- Each port decodes only its own unit's opcodes (R55, D25). -/
def decode (port : Port) (c : Command) : Except DecodeError Instr :=
  match port with
  | .core => decodeCore c
  | .dual => decodeDual c

/-- A transaction written as one number: `op` in the lowest 8 bits, then `a`, `b`, `c`, `d` of 64 bits each, every
field with its bit 0 lowest. DESIGN CHOICE (log 9): the spec presents the five fields together and numbers no bits
across them; this is the model's numbering for `decodeTableWord`. -/
def commandOfBits (w : Nat) : Command where
  op := BitVec.ofNat 8 w
  a := BitVec.ofNat 64 (w / 2 ^ 8)
  b := BitVec.ofNat 64 (w / 2 ^ 72)
  c := BitVec.ofNat 64 (w / 2 ^ 136)
  d := BitVec.ofNat 64 (w / 2 ^ 200)

/-- The number that `commandOfBits` reads as this transaction (log 9). -/
def Command.bits (c : Command) : Nat :=
  c.op.toNat + 2 ^ 8 * (c.a.toNat + 2 ^ 64 * (c.b.toNat + 2 ^ 64 * (c.c.toNat + 2 ^ 64 * c.d.toNat)))

/-- The port that a transaction written as one number is for: the DUAL port for `unit = 1`, the CORE port for
every other unit (R51; log 9). -/
def Command.tablePort (c : Command) : Port := if c.unit = 1#4 then .dual else .core

/-- The transaction with the low `nbits` bits of `w` and every higher bit 0. -/
def tableCommand (nbits w : Nat) : Command := commandOfBits (w % 2 ^ nbits)

/-- The command that the decoder reads from an instruction whose low `nbits` bits are `w` and whose other bits
are 0; `none` for a reserved opcode. -/
def decodeTableWord (nbits w : Nat) : Option Instr :=
  match decode (tableCommand nbits w).tablePort (tableCommand nbits w) with
  | .ok i => some i
  | .error _ => none

/-- The opcode of a command (R53, R54). -/
def Instr.opcode : Instr → U8
  | .seed _ _ => 0x01#8
  | .next => 0x02#8
  | .bounded _ => 0x03#8
  | .footprint => 0x04#8
  | .rdstate => 0x05#8
  | .rdinc => 0x06#8
  | .dseed _ _ _ _ => 0x11#8
  | .dnext => 0x12#8
  | .dbounded _ => 0x13#8
  | .dfootprint => 0x14#8

/-- The encoded listing of a command (R52, R58): the fields it uses, `none` for each field it ignores. BOUNDED's
listing shows all of `a`, its bound zero-extended, as R58's example does. -/
def Instr.listing (i : Instr) : Listing :=
  match i with
  | .seed s q => ⟨i.opcode, some s, some q, none, none⟩
  | .next => ⟨i.opcode, none, none, none, none⟩
  | .bounded bound => ⟨i.opcode, some (Machine.zext64 bound), none, none, none⟩
  | .footprint => ⟨i.opcode, none, none, none, none⟩
  | .rdstate => ⟨i.opcode, none, none, none, none⟩
  | .rdinc => ⟨i.opcode, none, none, none, none⟩
  | .dseed s1 s2 q1 q2 => ⟨i.opcode, some s1, some s2, some q1, some q2⟩
  | .dnext => ⟨i.opcode, none, none, none, none⟩
  | .dbounded bound => ⟨i.opcode, some bound, none, none, none⟩
  | .dfootprint => ⟨i.opcode, none, none, none, none⟩

/-- The transaction has the listing's opcode and its value in every field the listing names. -/
def Listing.matches (l : Listing) (c : Command) : Bool :=
  (l.op == c.op) && l.a.all (· == c.a) && l.b.all (· == c.b) && l.c.all (· == c.c) && l.d.all (· == c.d)

/-- The encoder: the listing's transaction with 0 in every field the command ignores. DESIGN CHOICE (log 10): the
ignored fields may hold any value (R52). -/
def encode (i : Instr) : Command where
  op := i.listing.op
  a := i.listing.a.getD 0#64
  b := i.listing.b.getD 0#64
  c := i.listing.c.getD 0#64
  d := i.listing.d.getD 0#64

end Sys2Proof
end

