-- ==== Sys2Proof/Config.lean ====
section
/-! DEFINITION. What an implementation fixes: the parameters of 00_scope.md R7, the open parameter
`SERIAL_BYTE_ORDER` of R8, and the value of a remainder that the spec leaves undefined (R10, R100).
The other open parameter of R8, `DUAL_PRESENT`, is the field `dualPresent` of the machine's state, so that
every statement about every state is about both values (log 1). -/

namespace Sys2Proof.Config

/-- `MULT` of R7, the multiplier of the linear congruential step. -/
def multiplier : U64 := 0x5851F42D4C957F2D#64

/-- `XS_SHIFT` of R7, the xorshift distance. -/
def xsShift : Nat := 18

/-- `OUT_SHIFT` of R7, the shift that selects the 32 output bits. -/
def outShift : Nat := 27

/-- `ROT_SHIFT` of R7, the shift that selects the 5 rotation bits. -/
def rotShift : Nat := 59

/-- `DUAL_MASK` of R7 and R131: it clears the top bit only. -/
def dualMask : U64 := 0x7FFFFFFFFFFFFFFF#64

/-- `FOOTPRINT_CORE` of R7, in bytes. -/
def footprintCore : U64 := 16#64

/-- `FOOTPRINT_DUAL` of R7, in bytes. -/
def footprintDual : U64 := 32#64

/-- `SERIAL_BYTE_ORDER` of R8: the place, in a host's serialised image, of each of the 16 bytes of one instance, and with
it the order of the two words (R41). Any order at all is possible, it is open, and no rule of the block reads it (D20;
log 7). -/
opaque serialByteOrder : Equiv.Perm (Fin 16)

/-- The value of `a mod 0` at width `w`, which R10 and R100 leave undefined. No rule evaluates it; it is a
free value, so that nothing can be proved of it (log 6). -/
opaque modByZero (w : Nat) : BitVec w → BitVec w

end Sys2Proof.Config
end

