-- ==== Sys2Proof/Machine/Datapath.lean ====
section
/-! DEFINITION. The pure functions of the datapath: the LCG stepper and the XSH-RR permuter (41_next.md R80 to R86), the
seeding function (40_seed.md R70), the rejection-sampling comparator (42_bounded.md R100 to R102) and its atomic form
(R106, R107), and the selector correction and the paired draw of the wrapper (44_dual_stream.md R131 to R137). Every
value is unsigned and every sum and product wraps (00_scope.md R10). -/

namespace Sys2Proof.Machine

/-- `Step`: `s * MULT + inc` (R80). The product is written with the constant first, as in R70's closed form: a kernel that
unfolds a product recurs on its second factor. -/
def lcgStep (s inc : U64) : U64 := Config.multiplier * s + inc

/-- Step 3 of `Perm`: `trunc32(((old >> 18) ^ old) >> 27)`, with logical shifts (R81, C5). -/
def xorshifted (old : U64) : U32 :=
  trunc32 (((old >>> Config.xsShift) ^^^ old) >>> Config.outShift)

/-- Step 4 of `Perm`: `trunc32(old >> 59)`, 0 to 31 (R81). -/
def rotAmount (old : U64) : U32 := trunc32 (old >>> Config.rotShift)

/-- Step 5 of `Perm`: `(x >> r) | (x << ((32 - r) & 31))` on `u32` values (R81). -/
def rotr32 (x r : U32) : U32 := (x >>> r) ||| (x <<< ((32#32 - r) &&& 31#32))

/-- `Perm`, the output function, applied to the pre-advance state (R81, R85). -/
def perm (old : U64) : U32 := rotr32 (xorshifted old) (rotAmount old)

/-- `Next32`: the output and the next state of one generation step (R86). -/
def next32 (s inc : U64) : U32 × U64 := (perm s, lcgStep s inc)

/-- Step 1 of `SeedFn`: `(sel << 1) | 1`; `sel[63]` is shifted out (R70). -/
def incrementOf (sel : U64) : U64 := (sel <<< 1) ||| 1#64

/-- Steps 2 to 5 of `SeedFn`: from state 0, step, add the seed, step (R70, R72). -/
def bootstrap (seed inc : U64) : U64 := lcgStep (lcgStep 0#64 inc + seed) inc

/-- `SeedFn`: the new state and the new increment (R70). -/
def seedFn (seed sel : U64) : U64 × U64 := (bootstrap seed (incrementOf sel), incrementOf sel)

/-- `a mod b` of R10, defined for `b > 0`; at `b = 0` a free value, which no rule evaluates (R100; log 6). -/
def umod {w : Nat} (a b : BitVec w) : BitVec w := if b = 0#w then Config.modByZero w a else a % b

/-- `Thresh_w`: `(2^w - bound) mod bound` in `w`-bit arithmetic (R100). -/
def thresh {w : Nat} (bound : BitVec w) : BitVec w := umod (0#w - bound) bound

/-- `Accept`: the draw is at least the threshold, unsigned (R101). -/
def accept {w : Nat} (r t : BitVec w) : Bool := BitVec.ule t r

/-- `Reduce`: `r mod bound` (R102). -/
def reduce {w : Nat} (r bound : BitVec w) : BitVec w := umod r bound

/-- `BoundedFn` of R107: the result and the final state of a whole BOUNDED, as a search of at most `fuel` draws. R106
says that `2^64` draws suffice on a seeded block. The machine does not use it: its draws are separate transitions
(R105, D14). -/
def boundedFn : (fuel : Nat) → (s inc : U64) → (bound : U32) → Option (U32 × U64)
  | 0, _, _, _ => none
  | fuel + 1, s, inc, bound =>
    if accept (perm s) (thresh bound) then some (reduce (perm s) bound, lcgStep s inc)
    else boundedFn fuel (lcgStep s inc) inc bound

/-- `Correct` (R132): complement the second selector if the two agree in bits 62:0. -/
def correct (sel1 sel2 : U64) : U64 :=
  if sel1 &&& Config.dualMask = sel2 &&& Config.dualMask then ~~~sel2 else sel2

/-- `(zext64(hi) << 32) | zext64(lo)` (R134). -/
def concat64 (hi lo : U32) : U64 := (zext64 hi <<< 32) ||| zext64 lo

/-- The 64-bit draw of the wrapper: gen0's output in the high half, gen1's in the low half, each from the pre-advance
state (R134, R135). -/
def dualDraw (s0 s1 : U64) : U64 := concat64 (perm s0) (perm s1)

/-- `DBoundedFn` (R137), the 64-bit analogue of `boundedFn`: the result and both final states. -/
def dboundedFn : (fuel : Nat) → (s0 inc0 s1 inc1 bound : U64) → Option (U64 × U64 × U64)
  | 0, _, _, _, _, _ => none
  | fuel + 1, s0, inc0, s1, inc1, bound =>
    if accept (dualDraw s0 s1) (thresh bound) then
      some (reduce (dualDraw s0 s1) bound, lcgStep s0 inc0, lcgStep s1 inc1)
    else dboundedFn fuel (lcgStep s0 inc0) inc0 (lcgStep s1 inc1) inc1 bound

end Sys2Proof.Machine
end

