-- ==== Sys2Proof/Machine/State.lean ====
section
/-! DEFINITION. The state: the registers of the CORE block (10_state.md R20 to R31), those of the PCG32-DUAL wrapper
(R32 to R34), the model argument `DUAL_PRESENT` (00_scope.md R8), and the host's coming moves (R13, R179). The block has
no memory, program counter or general registers (R22, R35, R40), so State holds none. -/

namespace Sys2Proof.Machine

/-- The values `ERR` can hold (R25). The codes 4 to 7 are never written, so the type leaves them out (U12). -/
inductive ErrCode where
  | ok
  | illegalOp
  | unseeded
  | boundZero
  deriving DecidableEq, Repr

/-- The CORE block's registers. `STATUS` (R23) is its three fields `busy`, `seeded` and `err`; the word the host reads
is computed from them in Machine/Flags.lean. -/
structure CoreRegs where
  /-- `STATE` (R20). -/
  state : U64
  /-- `INC` (R21). -/
  inc : U64
  /-- `STATUS` bit 0 (R26). -/
  busy : Bool
  /-- `STATUS` bit 1 (R24). -/
  seeded : Bool
  /-- `STATUS` bits 4:2 (R25). -/
  err : ErrCode
  /-- `RES` (R27). -/
  res : U64
  /-- `PBOUND`, hidden (R28). -/
  pbound : U32
  /-- `PTHRESH`, hidden (R28). -/
  pthresh : U32
  deriving DecidableEq, Repr

/-- The wrapper's registers (R32). -/
structure DualRegs where
  /-- `STATE0`. -/
  state0 : U64
  /-- `INC0`. -/
  inc0 : U64
  /-- `STATE1`. -/
  state1 : U64
  /-- `INC1`. -/
  inc1 : U64
  /-- `DBUSY`, `DSTATUS` bit 0. -/
  busy : Bool
  /-- `DSEEDED`, `DSTATUS` bit 1. -/
  seeded : Bool
  /-- `DERR`, `DSTATUS` bits 4:2. -/
  err : ErrCode
  /-- `DRES`. -/
  res : U64
  /-- `DPBOUND`, hidden. -/
  pbound : U64
  /-- `DPTHRESH`, hidden. -/
  pthresh : U64
  deriving DecidableEq, Repr

/-- The four registers the host can read (R23, R27, R32). -/
inductive HostReg where
  | res
  | status
  | dres
  | dstatus
  deriving DecidableEq, Repr

/-- One move of the host (R179), or its leaving a block to its own transition. -/
inductive HostInput where
  /-- Present a command, and hold it on the port until it is accepted (R176). -/
  | command (port : Port) (cmd : Command)
  /-- Assert the reset input of a block (R170, R171), with the command presented on its port at the same time, if
  there is one (R174). -/
  | reset (port : Port) (presented : Option Command)
  /-- Read a register (R43, R46). -/
  | read (reg : HostReg)
  /-- Do nothing while this block makes its next transition, if it has one (R105, R176). -/
  | pass (port : Port)
  deriving DecidableEq, Repr

/-- The whole machine. -/
structure State where
  /-- `DUAL_PRESENT`: fixed for the machine, written by no transition (R6, R8; log 1). -/
  dualPresent : Bool
  /-- The CORE block. -/
  core : CoreRegs
  /-- The wrapper; on a machine without it these registers do not exist and nothing reaches them. -/
  dual : DualRegs
  /-- The host's coming moves, the next one first (log 2). -/
  inputs : List HostInput
  /-- What the host's latest read returned, a 32-bit status zero-extended (R46; log 8). -/
  hostRead : U64
  deriving DecidableEq, Repr

/-- Why the machine stops. The block itself never stops: its errors are reports in `ERR` (R150). -/
inductive Fault where
  /-- A host move at the wrapper's port, reset input or registers on a machine without the wrapper, where they do not
  exist (R6, R54, D23). Raised by `withPort` in Machine/Ops.lean. Safe: the spec gives such a move no meaning. -/
  | dualPortAbsent
  deriving DecidableEq, Repr

/-- Why a command has no meaning. Every command of the opcode table has one, so no arm of `exec` answers so. -/
inductive Refusal where
  /-- An instruction the model has not reached, refused by its mnemonic. Raised by no arm. Safe. -/
  | notModelled (mnemonic : String)
  deriving DecidableEq, Repr

/-- The CORE block's reset values (R31, R170). -/
def coreReset : CoreRegs where
  state := 0#64
  inc := 0#64
  busy := false
  seeded := false
  err := .ok
  res := 0#64
  pbound := 0#32
  pthresh := 0#32

/-- The wrapper's reset values (R34, R171). -/
def dualReset : DualRegs where
  state0 := 0#64
  inc0 := 0#64
  state1 := 0#64
  inc1 := 0#64
  busy := false
  seeded := false
  err := .ok
  res := 0#64
  pbound := 0#64
  pthresh := 0#64

/-- The machine right after reset (R170, R171), with the wrapper present (log 1), no move of the host yet (log 2) and
nothing read (log 8). -/
def State.reset : State where
  dualPresent := true
  core := coreReset
  dual := dualReset
  inputs := []
  hostRead := 0#64

end Sys2Proof.Machine
end

