-- ==== Sys2Proof/Machine/Flags.lean ====
section
/-! DEFINITION. The status words as the host reads them (10_state.md R23, R25, R32): the only flags of the machine. -/

namespace Sys2Proof.Machine

/-- The 3-bit code of each outcome (R25). -/
def errBits : ErrCode → BitVec 3
  | .ok => 0#3
  | .illegalOp => 1#3
  | .unseeded => 2#3
  | .boundZero => 3#3

/-- The layout of R23: bit 0 `BUSY`, bit 1 `SEEDED`, bits 4:2 `ERR`, bits 31:5 read as 0. -/
def packStatus (busy seeded : Bool) (err : ErrCode) : U32 :=
  0#27 ++ errBits err ++ BitVec.ofBool seeded ++ BitVec.ofBool busy

/-- `STATUS` (R23). -/
def statusWord (r : CoreRegs) : U32 := packStatus r.busy r.seeded r.err

/-- `DSTATUS`, with the layout of R23 (R32). -/
def dstatusWord (r : DualRegs) : U32 := packStatus r.busy r.seeded r.err

end Sys2Proof.Machine
end

