-- ==== Sys2Proof/Machine/Ops.lean ====
section
/-! DEFINITION. The named operations on the state that the meanings share: which ports a machine has and which are
busy, the update of one block's registers, the error report `fail E` (60_exceptions.md R150), the one thing this
hardware does in place of taking an exception, and the reset of a block (70_reset_and_hazards.md R170, R171). There is
no return from an exception: control goes nowhere and the next command runs as normal (R158, R159). -/

namespace Sys2Proof.Machine

/-- The outcome of a transition of this machine. -/
abbrev Result := Host.Outcome State Fault Refusal

/-- The machine has the port: the CORE port always, the DUAL port when `DUAL_PRESENT` (R6, R130). -/
def State.hasPort (s : State) : Port → Bool
  | .core => true
  | .dual => s.dualPresent

/-- `BUSY` or `DBUSY` of the port's block (R26, R32). -/
def State.busyOn (s : State) : Port → Bool
  | .core => s.core.busy
  | .dual => s.dual.busy

/-- Go on only on a machine that has the port; the wrapper's port does not exist without the wrapper (R6, D23; log 4). -/
def withPort (port : Port) (s : State) (go : State → Result) : Result :=
  if s.hasPort port then go s else .fault .dualPortAbsent

/-- Update the CORE block's registers. -/
def State.mapCore (s : State) (f : CoreRegs → CoreRegs) : State := { s with core := f s.core }

/-- Update the wrapper's registers. -/
def State.mapDual (s : State) (f : DualRegs → DualRegs) : State := { s with dual := f s.dual }

/-- `fail E` on the CORE port: `ERR <- E` and nothing else (R150). -/
def coreFail (e : ErrCode) (s : State) : State := s.mapCore fun r => { r with err := e }

/-- `fail E` on the DUAL port: `DERR <- E` and nothing else (R150). -/
def dualFail (e : ErrCode) (s : State) : State := s.mapDual fun r => { r with err := e }

/-- `fail E` on the port of the command (R150). -/
def fail (port : Port) (e : ErrCode) (s : State) : State :=
  match port with
  | .core => coreFail e s
  | .dual => dualFail e s

/-- A query's effect on the CORE block: `RES <- v; ERR <- OK` and nothing else (43_query.md R120). -/
def coreAnswer (v : U64) (s : State) : State := s.mapCore fun r => { r with res := v, err := .ok }

/-- The same on the wrapper: `DRES <- v; DERR <- OK` (44_dual_stream.md R138). -/
def dualAnswer (v : U64) (s : State) : State := s.mapDual fun r => { r with res := v, err := .ok }

/-- The reset transition of one block: every register to its reset value, in any state (R170, R171). -/
def resetBlock (port : Port) (s : State) : State :=
  match port with
  | .core => s.mapCore fun _ => coreReset
  | .dual => s.mapDual fun _ => dualReset

/-- The value a host read returns: a register's current value, which is that of the latest completed transition; a
32-bit status comes zero-extended (R46, R23, R27). -/
def readReg (s : State) : HostReg → U64
  | .res => s.core.res
  | .status => (statusWord s.core).setWidth 64
  | .dres => s.dual.res
  | .dstatus => (dstatusWord s.dual).setWidth 64

/-- The port whose block holds the register. -/
def HostReg.port : HostReg → Port
  | .res => .core
  | .status => .core
  | .dres => .dual
  | .dstatus => .dual

/-- The block that a host's move is for. -/
def HostInput.port : HostInput → Port
  | .command port _ => port
  | .reset port _ => port
  | .read reg => reg.port
  | .pass port => port

/-- `ERR` or `DERR` of the port's block (R25). -/
def State.errOn (s : State) : Port → ErrCode
  | .core => s.core.err
  | .dual => s.dual.err

/-- `SEEDED` or `DSEEDED` of the port's block (R24). -/
def State.seededOn (s : State) : Port → Bool
  | .core => s.core.seeded
  | .dual => s.dual.seeded

end Sys2Proof.Machine
end

