-- ==== Sys2Proof/Machine/Dual.lean ====
section
/-! DEFINITION. The PCG32-DUAL wrapper's commands (44_dual_stream.md R130 to R141), on a machine that has the wrapper. -/

namespace Sys2Proof.Machine

/-- DSEED (R133): gen0 from `(seed1, sel1)`, gen1 from `(seed2, Correct(sel1, sel2))`. -/
def execDseed (seed1 seed2 streamSel1 streamSel2 : U64) (s : State) : Result :=
  withPort .dual s fun s =>
    .next (s.mapDual fun r =>
      { r with
        state0 := (seedFn seed1 streamSel1).1
        inc0 := (seedFn seed1 streamSel1).2
        state1 := (seedFn seed2 (correct streamSel1 streamSel2)).1
        inc1 := (seedFn seed2 (correct streamSel1 streamSel2)).2
        seeded := true
        err := .ok })

/-- DNEXT (R134): each generator steps once, gen0's output in `DRES[63:32]`, gen1's in `DRES[31:0]` (R135). -/
def execDnext (s : State) : Result :=
  withPort .dual s fun s =>
    if s.dual.seeded then
      .next (s.mapDual fun r =>
        { r with
          state0 := (next32 r.state0 r.inc0).2
          state1 := (next32 r.state1 r.inc1).2
          res := concat64 (next32 r.state0 r.inc0).1 (next32 r.state1 r.inc1).1
          err := .ok })
    else .next (fail .dual .unseeded s)

/-- DBOUNDED, the acceptance transition (R136), its checks in the order of R155. -/
def execDbounded (bound : U64) (s : State) : Result :=
  withPort .dual s fun s =>
    if s.dual.seeded = false then .next (fail .dual .unseeded s)
    else if bound = 0#64 then .next (fail .dual .boundZero s)
    else
      .next (s.mapDual fun r =>
        { r with
          pbound := bound
          pthresh := thresh bound
          busy := true
          err := .ok })

/-- DBOUNDED, one draw (R137), made while `DBUSY = 1`. -/
def drawDual (r : DualRegs) : DualRegs :=
  if accept (dualDraw r.state0 r.state1) r.pthresh then
    { r with
      state0 := lcgStep r.state0 r.inc0
      state1 := lcgStep r.state1 r.inc1
      res := reduce (dualDraw r.state0 r.state1) r.pbound
      busy := false }
  else
    { r with
      state0 := lcgStep r.state0 r.inc0
      state1 := lcgStep r.state1 r.inc1 }

/-- DFOOTPRINT (R138): 32, in any state. -/
def execDfootprint (s : State) : Result :=
  withPort .dual s fun s => .next (dualAnswer Config.footprintDual s)

end Sys2Proof.Machine
end

