-- ==== Sys2Proof/Machine/Generate.lean ====
section
/-! DEFINITION. NEXT (41_next.md R84 to R90) and BOUNDED (42_bounded.md R104 to R111), whose acceptance and draws are
separate transitions. -/

namespace Sys2Proof.Machine

/-- NEXT (R84): on a seeded block one generation step, its output zero-extended in `RES`. -/
def execNext (s : State) : Result :=
  if s.core.seeded then
    .next (s.mapCore fun r =>
      { r with
        state := (next32 r.state r.inc).2
        res := zext64 (next32 r.state r.inc).1
        err := .ok })
  else .next (fail .core .unseeded s)

/-- BOUNDED, the acceptance transition (R104): the checks in the order of R155, then the pending bound and threshold
and `BUSY <- 1`. No draw is made. -/
def execBounded (bound : U32) (s : State) : Result :=
  if s.core.seeded = false then .next (fail .core .unseeded s)
  else if bound = 0#32 then .next (fail .core .boundZero s)
  else
    .next (s.mapCore fun r =>
      { r with
        pbound := bound
        pthresh := thresh bound
        busy := true
        err := .ok })

/-- BOUNDED, one draw (R105), made while `BUSY = 1`: every draw advances `STATE`; the accepted one writes `RES` and
clears `BUSY`. -/
def drawCore (r : CoreRegs) : CoreRegs :=
  if accept (perm r.state) r.pthresh then
    { r with
      state := lcgStep r.state r.inc
      res := zext64 (reduce (perm r.state) r.pbound)
      busy := false }
  else { r with state := lcgStep r.state r.inc }

end Sys2Proof.Machine
end

