-- ==== Sys2Proof/Machine/Query.lean ====
section
/-! DEFINITION. The query commands FOOTPRINT, RDSTATE and RDINC (43_query.md R120 to R123): they never fail, do not look at
`SEEDED`, and write `RES` and `ERR` only. -/

namespace Sys2Proof.Machine

/-- FOOTPRINT (R121): 16, the bytes of `STATE` and `INC`. -/
def execFootprint (s : State) : Result := .next (coreAnswer Config.footprintCore s)

/-- RDSTATE (R122). -/
def execRdstate (s : State) : Result := .next (coreAnswer s.core.state s)

/-- RDINC (R123). -/
def execRdinc (s : State) : Result := .next (coreAnswer s.core.inc s)

end Sys2Proof.Machine
end

