-- ==== Sys2Proof/Machine/Seed.lean ====
section
/-! DEFINITION. SEED (40_seed.md R70 to R78). -/

namespace Sys2Proof.Machine

/-- SEED (R71): `STATE` and `INC` from `SeedFn`, `SEEDED <- 1`, `ERR <- OK`; the old generator is not read, and `RES`,
`BUSY`, `PBOUND` and `PTHRESH` keep their values. -/
def execSeed (seed streamSelector : U64) (s : State) : Result :=
  .next (s.mapCore fun r =>
    { r with
      state := (seedFn seed streamSelector).1
      inc := (seedFn seed streamSelector).2
      seeded := true
      err := .ok })

end Sys2Proof.Machine
end

