-- ==== Sys2Proof/Machine/Dispatch.lean ====
section
/-! DEFINITION. The acceptance transition of each command of the opcode table. A port that is busy accepts no command
(70_reset_and_hazards.md R176): that hold stands in Machine/Port.lean, before `exec` (log 12). -/

namespace Sys2Proof.Machine

def exec (i : Instr) (s : State) : Host.Outcome State Fault Refusal :=
  match i with
  | .seed seed streamSelector => Sys2Proof.Machine.execSeed seed streamSelector s
  | .next => Sys2Proof.Machine.execNext s
  | .bounded bound => Sys2Proof.Machine.execBounded bound s
  | .footprint => Sys2Proof.Machine.execFootprint s
  | .rdstate => Sys2Proof.Machine.execRdstate s
  | .rdinc => Sys2Proof.Machine.execRdinc s
  | .dseed seed1 seed2 streamSel1 streamSel2 => Sys2Proof.Machine.execDseed seed1 seed2 streamSel1 streamSel2 s
  | .dnext => Sys2Proof.Machine.execDnext s
  | .dbounded bound => Sys2Proof.Machine.execDbounded bound s
  | .dfootprint => Sys2Proof.Machine.execDfootprint s

end Sys2Proof.Machine
end

