-- ==== Sys2Proof/Machine/Port.lean ====
section
/-! DEFINITION. What happens around a command: a block's own transition while it is busy (42_bounded.md R105,
44_dual_stream.md R137), the busy hold (70_reset_and_hazards.md R176), the acceptance of a presented command
(30_encoding.md R50, R55, R56), reset (R170 to R174) and the host's reads (20_memory.md R43, R46). -/

namespace Sys2Proof.Machine

/-- The transition a block makes by itself: a draw while it is busy, nothing while it waits (R105, R137, R165). -/
def ownTransition (port : Port) (s : State) : State :=
  match port with
  | .core => if s.core.busy then s.mapCore drawCore else s
  | .dual => if s.dual.busy then s.mapDual drawDual else s

/-- With no move of the host left, a busy block draws: CORE before the wrapper (log 3), and with neither busy the
machine holds its state (R165). -/
def freeRun (s : State) : State :=
  if s.core.busy then ownTransition .core s
  else if s.dualPresent then ownTransition .dual s
  else s

/-- Take a presented command: decode it on its port and perform it, or report a reserved opcode (R55, R56, R151). -/
def acceptCommand (port : Port) (cmd : Command) (s : State) : Result :=
  match decode port cmd with
  | .ok i => exec i s
  | .error _ => .next (fail port .illegalOp s)

/-- One transition of the machine. The host's next move, if there is one, says whose transition it is:
a command waits at the head while its port is busy, and meanwhile the block draws (R176);
a reset loses the command presented with it (R174);
a read changes nothing but what the host has read (R43). -/
def transition (s : State) : Result :=
  match s.inputs with
  | [] => .next (freeRun s)
  | .command port cmd :: rest =>
    withPort port s fun s =>
      if s.busyOn port then .next (ownTransition port s)
      else acceptCommand port cmd { s with inputs := rest }
  | .reset port _ :: rest =>
    withPort port s fun s => .next (resetBlock port { s with inputs := rest })
  | .read reg :: rest =>
    withPort reg.port s fun s => .next { s with inputs := rest, hostRead := readReg s reg }
  | .pass port :: rest =>
    withPort port s fun s => .next (ownTransition port { s with inputs := rest })

/-- The machine with its port there and not busy, so that a command presented next is accepted next. -/
def readyPort (port : Port) (s : State) : State :=
  match port with
  | .core => s.mapCore fun r => { r with busy := false }
  | .dual => { s.mapDual (fun r => { r with busy := false }) with dualPresent := true }

/-- The host presents this command next, on a port that is ready for it (log 9). -/
def presentNext (port : Port) (cmd : Command) (s : State) : State :=
  { readyPort port s with inputs := .command port cmd :: s.inputs }

end Sys2Proof.Machine
end

