-- ==== Sys2Proof/Machine/Step.lean ====
section
/-! DEFINITION. One step, and the placing of a command where the next step takes it. -/

namespace Sys2Proof.Machine

/-- One transition of the machine (00_scope.md R8, "model level"). -/
def step (s : State) : Host.Outcome State Fault Refusal := transition s

/-- The state in which the next step accepts the command whose low `nbits` bits are `w`: the host presents it on the
port of its unit, and that port is there and not busy (log 9). -/
def State.withFetchWord (s : State) (nbits w : Nat) : State :=
  presentNext (tableCommand nbits w).tablePort (tableCommand nbits w) s

end Sys2Proof.Machine
end

