-- ==== Sys2Proof/WellFormed.lean ====
section
/-! DEFINITION. The checks on syntax: a command exists only on a machine that has its port (00_scope.md R6,
30_encoding.md R54), and an operand of a listing fits its width (R57). The widths of an `Instr`'s operands are in
their types, so nothing about them is left to check. -/

namespace Sys2Proof

/-- A machine with `DUAL_PRESENT = false` has no DUAL opcodes (R6, R54, D23). -/
def Instr.wellFormed (dualPresent : Bool) (i : Instr) : Bool :=
  match i.port with
  | .core => true
  | .dual => dualPresent

/-- The literal fits an operand of `width` bits (R57). -/
def fitsWidth (width value : Nat) : Bool := decide (value < 2 ^ width)

/-- Every operand of the line fits: 64 bits, and 32 bits for BOUNDED (R57). -/
def AsmLine.wellFormed : AsmLine → Bool
  | .seed s q => fitsWidth 64 s && fitsWidth 64 q
  | .next => true
  | .bounded bound => fitsWidth 32 bound
  | .footprint => true
  | .rdstate => true
  | .rdinc => true
  | .dseed s1 s2 q1 q2 => fitsWidth 64 s1 && fitsWidth 64 s2 && fitsWidth 64 q1 && fitsWidth 64 q2
  | .dnext => true
  | .dbounded bound => fitsWidth 64 bound
  | .dfootprint => true
  | .reset => true
  | .blank => true

end Sys2Proof
end

