-- ==== Sys2Proof/Machine/Asm.lean ====
section
/-! DEFINITION. The textual forms of a command: the assembler's line (30_encoding.md R57) and the encoded listing (R58). No
transition uses them; they are the spec's way to write a sequence of host commands down. Text is a list of characters. -/

namespace Sys2Proof.Machine

/-- The characters that separate words (log 11). -/
def isBlankChar (ch : Char) : Bool := ch == ' ' || ch == '\t'

/-- Comments start with `;` (R57). -/
def dropComment (text : List Char) : List Char := text.takeWhile (· != ';')

/-- Without blanks at either end. -/
def trimBlanks (text : List Char) : List Char :=
  ((text.dropWhile isBlankChar).reverse.dropWhile isBlankChar).reverse

/-- The pieces between commas; always at least one. -/
def splitCommas : List Char → List (List Char)
  | [] => [[]]
  | ch :: rest =>
    if ch == ',' then [] :: splitCommas rest
    else
      match splitCommas rest with
      | [] => [[ch]]
      | piece :: pieces => (ch :: piece) :: pieces

/-- A decimal digit's value. -/
def decimalDigit (ch : Char) : Option Nat :=
  if '0'.toNat ≤ ch.toNat ∧ ch.toNat ≤ '9'.toNat then some (ch.toNat - '0'.toNat) else none

/-- A hexadecimal digit's value, in either letter case (log 11). -/
def hexDigit (ch : Char) : Option Nat :=
  if 'A'.toNat ≤ ch.toNat ∧ ch.toNat ≤ 'F'.toNat then some (ch.toNat - 'A'.toNat + 10)
  else if 'a'.toNat ≤ ch.toNat ∧ ch.toNat ≤ 'f'.toNat then some (ch.toNat - 'a'.toNat + 10)
  else decimalDigit ch

/-- The number that the digits continue from `acc`, in this base. -/
def digitsFrom (digit : Char → Option Nat) (base : Nat) : List Char → Nat → Option Nat
  | [], acc => some acc
  | ch :: rest, acc => (digit ch).bind fun v => digitsFrom digit base rest (acc * base + v)

/-- At least one digit. -/
def number (digit : Char → Option Nat) (base : Nat) (text : List Char) : Option Nat :=
  if text.isEmpty then none else digitsFrom digit base text 0

/-- An unsigned literal, decimal or `0x` hexadecimal (R57); in a hexadecimal one `_` separates digits and carries no
value (00_scope.md R9; log 11). -/
def literal : List Char → Option Nat
  | '0' :: 'x' :: digits => number hexDigit 16 (digits.filter (· != '_'))
  | digits => number decimalDigit 10 digits

/-- The operands of a line, none if nothing but blanks follows the mnemonic. -/
def operandList (text : List Char) : Option (List Nat) :=
  if (trimBlanks text).isEmpty then some [] else (splitCommas text).mapM fun piece => literal (trimBlanks piece)

/-- A mnemonic, upper case (R57), with the operands of R52. -/
def lineOf (word : List Char) (operands : List Nat) : Except AsmError AsmLine :=
  if word = "SEED".toList then
    match operands with
    | [s, q] => .ok (.seed s q)
    | _ => .error .operandCount
  else if word = "BOUNDED".toList then
    match operands with
    | [b] => .ok (.bounded b)
    | _ => .error .operandCount
  else if word = "DSEED".toList then
    match operands with
    | [s1, s2, q1, q2] => .ok (.dseed s1 s2 q1 q2)
    | _ => .error .operandCount
  else if word = "DBOUNDED".toList then
    match operands with
    | [b] => .ok (.dbounded b)
    | _ => .error .operandCount
  else if word = "NEXT".toList then noOperands operands .next
  else if word = "FOOTPRINT".toList then noOperands operands .footprint
  else if word = "RDSTATE".toList then noOperands operands .rdstate
  else if word = "RDINC".toList then noOperands operands .rdinc
  else if word = "DNEXT".toList then noOperands operands .dnext
  else if word = "DFOOTPRINT".toList then noOperands operands .dfootprint
  else if word = "RESET".toList then noOperands operands .reset
  else .error .unknownMnemonic
where
  /-- A line that takes no operand. -/
  noOperands (operands : List Nat) (line : AsmLine) : Except AsmError AsmLine :=
    if operands.isEmpty then .ok line else .error .operandCount

/-- One line of text (R57). -/
def parseLine (text : List Char) : Except AsmError AsmLine :=
  let line := trimBlanks (dropComment text)
  if line.isEmpty then .ok .blank
  else
    match operandList (line.dropWhile fun ch => !isBlankChar ch) with
    | some operands => lineOf (line.takeWhile fun ch => !isBlankChar ch) operands
    | none => .error .badLiteral

/-- The command a line stands for; `RESET` is not a command and has no opcode (R57). -/
def lineCommand : AsmLine → Option Instr
  | .seed s q => some (.seed (BitVec.ofNat 64 s) (BitVec.ofNat 64 q))
  | .next => some .next
  | .bounded b => some (.bounded (BitVec.ofNat 32 b))
  | .footprint => some .footprint
  | .rdstate => some .rdstate
  | .rdinc => some .rdinc
  | .dseed s1 s2 q1 q2 =>
    some (.dseed (BitVec.ofNat 64 s1) (BitVec.ofNat 64 s2) (BitVec.ofNat 64 q1) (BitVec.ofNat 64 q2))
  | .dnext => some .dnext
  | .dbounded b => some (.dbounded (BitVec.ofNat 64 b))
  | .dfootprint => some .dfootprint
  | .reset => none
  | .blank => none

/-- The host's moves for a line of a listing for one port: an operand that does not fit its width is an error, not a
truncation; `RESET` asserts the port's reset input (R57). DESIGN CHOICE (log 11): R57 does not say whether a mnemonic of
the other unit may stand in a port's listing; here it assembles to its opcode, which is reserved on this port. -/
def assemble (port : Port) (line : AsmLine) : Except AsmError (List HostInput) :=
  if line.wellFormed then
    match lineCommand line with
    | some i => .ok [.command port (encode i)]
    | none => if line = .reset then .ok [.reset port none] else .ok []
  else .error .operandTooWide

/-- One upper-case hexadecimal digit. -/
def hexChar (v : Nat) : Char :=
  if v < 10 then Char.ofNat ('0'.toNat + v) else Char.ofNat ('A'.toNat + (v - 10))

/-- The low `n` hexadecimal digits of a value, the most significant first. -/
def hexChars : (n : Nat) → Nat → List Char
  | 0, _ => []
  | n + 1, v => hexChars n (v / 16) ++ [hexChar (v % 16)]

/-- An operand field of an encoded listing: 16 digits, or `-` for a field the command ignores (R58). -/
def fieldText (name : Char) : Option U64 → List Char
  | some v => [' ', name, '=', '0', 'x'] ++ hexChars 16 v.toNat
  | none => [' ', name, '=', '-']

/-- `op=0xNN a=0x... b=0x... c=0x... d=0x...` (R58). -/
def listingText (l : Listing) : List Char :=
  ['o', 'p', '=', '0', 'x'] ++ hexChars 2 l.op.toNat ++ fieldText 'a' l.a ++ fieldText 'b' l.b ++ fieldText 'c' l.c
    ++ fieldText 'd' l.d

end Sys2Proof.Machine
end

