-- ==== Sys2Proof/Safety.lean ====
section
/-! DEFINITION. The terms in which claims are made: the invariants of 10_state.md R29 and R33, runs of commands, the
sequence of states of one generator, and the end of a run (00_scope.md R15). -/

namespace Sys2Proof.Machine

/-- The CORE block's invariants (R29), with the outcome `OK` that a BOUNDED in progress shows (42_bounded.md R105). -/
structure CoreInv (r : CoreRegs) : Prop where
  unseeded : r.seeded = false → r.state = 0#64 ∧ r.inc = 0#64
  odd : r.seeded = true → r.inc.getLsbD 0 = true
  pending : r.busy = true → r.seeded = true ∧ r.err = .ok ∧ r.pbound ≠ 0#32 ∧ r.pthresh = thresh r.pbound ∧
    r.pthresh.toNat < r.pbound.toNat

/-- The wrapper's invariants (R33), with the analogues of R29. -/
structure DualInv (r : DualRegs) : Prop where
  unseeded : r.seeded = false → r.state0 = 0#64 ∧ r.inc0 = 0#64 ∧ r.state1 = 0#64 ∧ r.inc1 = 0#64
  odd : r.seeded = true → r.inc0.getLsbD 0 = true ∧ r.inc1.getLsbD 0 = true ∧ r.inc0 ≠ r.inc1
  pending : r.busy = true → r.seeded = true ∧ r.err = .ok ∧ r.pbound ≠ 0#64 ∧ r.pthresh = thresh r.pbound ∧
    r.pthresh.toNat < r.pbound.toNat

/-- The machine's invariant; on a machine without the wrapper nothing has touched the wrapper's registers (R6). -/
structure State.Inv (s : State) : Prop where
  core : CoreInv s.core
  dual : DualInv s.dual
  absent : s.dualPresent = false → s.dual = dualReset

/-- The commands one after another, each accepted in the state that the one before it leaves. BOUNDED and DBOUNDED
stand for their acceptance only; a run with their draws is a run of `step`. -/
def execSeq : List Instr → State → Result
  | [], s => .next s
  | i :: rest, s =>
    match exec i s with
    | .next t => execSeq rest t
    | .fault r => .fault r
    | .refused r => .refused r

/-- `k` steps of the machine, up to the first stop. -/
def runSteps : Nat → State → Result
  | 0, s => .next s
  | k + 1, s =>
    match step s with
    | .next t => runSteps k t
    | .fault r => .fault r
    | .refused r => .refused r

/-- `s_k` of 41_next.md R90: the generator's state after `k` steps. -/
def stateAfter (s inc : U64) : Nat → U64
  | 0 => s
  | k + 1 => lcgStep (stateAfter s inc k) inc

/-- The end of a run: no block is busy and the host has no move left (R15). -/
def State.quiet (s : State) : Prop :=
  s.core.busy = false ∧ s.dual.busy = false ∧ s.inputs = []

/-- The host's next move, if it has one, leaves the CORE block to its own transition without moving past itself:
there is none, or it is a command waiting for the CORE port (R176). -/
def State.coreHeld (s : State) : Prop :=
  s.inputs = [] ∨ ∃ cmd rest, s.inputs = .command .core cmd :: rest

end Sys2Proof.Machine
end

