-- ==== Sys2Proof/Certificates/Slice0/Obligations.lean ====
section
/-! DEFINITION. The statements for the provers, from the numbered rules of the spec. -/

open Sys2Proof
open Sys2Proof.Machine

/-- Commands written out from R53, R54 and the operand table of R52 decode to what they stand for, with values in the
ignored fields, and each port refuses the other's opcodes (R55). The numbering that the `decodeTableWord` clauses read,
and their choice of port by the opcode's unit, are the model's choice (log 9). -/
def Obligations.SpecWordsDecode : Prop :=
  decodeTableWord 8 0x01 = some (.seed 0#64 0#64) ∧
  decodeTableWord 8 0x02 = some .next ∧
  decodeTableWord 8 0x03 = some (.bounded 0#32) ∧
  decodeTableWord 8 0x04 = some .footprint ∧
  decodeTableWord 8 0x05 = some .rdstate ∧
  decodeTableWord 8 0x06 = some .rdinc ∧
  decodeTableWord 8 0x11 = some (.dseed 0#64 0#64 0#64 0#64) ∧
  decodeTableWord 8 0x12 = some .dnext ∧
  decodeTableWord 8 0x13 = some (.dbounded 0#64) ∧
  decodeTableWord 8 0x14 = some .dfootprint ∧
  decode .core ⟨0x01#8, 42#64, 54#64, 7#64, 9#64⟩ = .ok (.seed 42#64 54#64) ∧
  decode .core ⟨0x03#8, 0x100000006#64, 1#64, 2#64, 3#64⟩ = .ok (.bounded 6#32) ∧
  decode .dual ⟨0x11#8, 1#64, 2#64, 3#64, 4#64⟩ = .ok (.dseed 1#64 2#64 3#64 4#64) ∧
  decode .dual ⟨0x13#8, 0x8000000000000001#64, 1#64, 2#64, 3#64⟩ = .ok (.dbounded 0x8000000000000001#64) ∧
  decode .core ⟨0x11#8, 1#64, 2#64, 3#64, 4#64⟩ = .error (.reserved .core 0x11#8) ∧
  decode .dual ⟨0x02#8, 0#64, 0#64, 0#64, 0#64⟩ = .error (.reserved .dual 0x02#8)

/-- Every transaction that fits a command's encoded listing decodes to that command, whatever the ignored fields hold
(R52, R53, R54, R58); the encoder's transaction fits the listing; and the encoder's transaction written as one number
(the model's numbering, log 9) decodes to it too. -/
def Obligations.DecodeInvertsEncode : Prop :=
  ∀ i : Instr,
    (∀ c : Command, i.listing.matches c = true → decode i.port c = .ok i) ∧
    i.listing.matches (encode i) = true ∧
    decodeTableWord 264 (encode i).bits = some i

/-- R52: a decoded command's operands are the fields the table names, unscaled, and no other field matters. -/
def Obligations.OperandsComeFromTheirFields : Prop :=
  ∀ (p : Port) (c : Command) (i : Instr), decode p c = .ok i →
    i.port = p ∧ i.opcode = c.op ∧
    (match i with
      | .seed seed sel => seed = c.a ∧ sel = c.b
      | .bounded bound => bound.toNat = c.a.toNat % 2 ^ 32
      | .dseed seed1 seed2 sel1 sel2 => seed1 = c.a ∧ seed2 = c.b ∧ sel1 = c.c ∧ sel2 = c.d
      | .dbounded bound => bound = c.a
      | .next => True
      | .footprint => True
      | .rdstate => True
      | .rdinc => True
      | .dnext => True
      | .dfootprint => True) ∧
    ∀ c' : Command, c'.op = c.op →
      (match i with
        | .seed _ _ => c'.a = c.a ∧ c'.b = c.b
        | .bounded _ => c'.a.toNat % 2 ^ 32 = c.a.toNat % 2 ^ 32
        | .dseed _ _ _ _ => c'.a = c.a ∧ c'.b = c.b ∧ c'.c = c.c ∧ c'.d = c.d
        | .dbounded _ => c'.a = c.a
        | .next => True
        | .footprint => True
        | .rdstate => True
        | .rdinc => True
        | .dnext => True
        | .dfootprint => True) →
      decode p c' = .ok i

/-- R55: each of the 256 opcodes decodes to one command or is reserved, on each port, and which it is depends on the
opcode alone. -/
def Obligations.DecodingIsTotal : Prop :=
  ∀ c : Command,
    ((∃ i, decode .core c = .ok i) ↔ 1 ≤ c.op.toNat ∧ c.op.toNat ≤ 6) ∧
    (decode .core c = .error (.reserved .core c.op) ↔ c.op.toNat = 0 ∨ 7 ≤ c.op.toNat) ∧
    ((∃ i, decode .dual c = .ok i) ↔ 0x11 ≤ c.op.toNat ∧ c.op.toNat ≤ 0x14) ∧
    (decode .dual c = .error (.reserved .dual c.op) ↔ c.op.toNat < 0x11 ∨ 0x14 < c.op.toNat)

/-- R56: a reserved opcode's acceptance transition writes `ILLEGAL_OP` and nothing else (the host's move is used up),
and there are 250 reserved values on the CORE port and 252 on the DUAL port. That a busy other block stands still in the
step is the model's choice (log 15). -/
def Obligations.ReservedOpcodeReports : Prop :=
  (∀ (s : State) (c : Command) (rest : List HostInput),
    s.inputs = .command .core c :: rest → s.core.busy = false → (c.op.toNat = 0 ∨ 7 ≤ c.op.toNat) →
    step s = .next { s with inputs := rest, core := { s.core with err := .illegalOp } }) ∧
  (∀ (s : State) (c : Command) (rest : List HostInput),
    s.inputs = .command .dual c :: rest → s.dualPresent = true → s.dual.busy = false →
    (c.op.toNat < 0x11 ∨ 0x14 < c.op.toNat) →
    step s = .next { s with inputs := rest, dual := { s.dual with err := .illegalOp } }) ∧
  ((List.range 256).filter fun n => n = 0 ∨ 7 ≤ n).length = 250 ∧
  ((List.range 256).filter fun n => n < 0x11 ∨ 0x14 < n).length = 252

/-- R31 and R34: the reset values of every register, and the status words they give. -/
def Obligations.ResetValues : Prop :=
  State.reset.core.state = 0#64 ∧ State.reset.core.inc = 0#64 ∧ State.reset.core.seeded = false ∧
  State.reset.core.busy = false ∧ State.reset.core.err = .ok ∧ State.reset.core.res = 0#64 ∧
  State.reset.core.pbound = 0#32 ∧ State.reset.core.pthresh = 0#32 ∧ statusWord State.reset.core = 0#32 ∧
  State.reset.dual.state0 = 0#64 ∧ State.reset.dual.inc0 = 0#64 ∧ State.reset.dual.state1 = 0#64 ∧
  State.reset.dual.inc1 = 0#64 ∧ State.reset.dual.res = 0#64 ∧ State.reset.dual.pbound = 0#64 ∧
  State.reset.dual.pthresh = 0#64 ∧ dstatusWord State.reset.dual = 0#32

/-- R170, R171 and R174: reset in any state, busy or not, with or without a command presented at the same time, is one
transition that gives every register of its block its reset value; the command is lost. Three things are the model's,
not the rules': each block has a reset input of its own, so the other block is untouched (log 5); the host's last read
survives (log 8); the lost command is an argument of the move (log 14). -/
def Obligations.ResetTransition : Prop :=
  (∀ (s : State) (presented : Option Command) (rest : List HostInput),
    s.inputs = .reset .core presented :: rest →
    step s = .next { s with inputs := rest, core := ⟨0#64, 0#64, false, false, .ok, 0#64, 0#32, 0#32⟩ }) ∧
  (∀ (s : State) (presented : Option Command) (rest : List HostInput),
    s.inputs = .reset .dual presented :: rest → s.dualPresent = true →
    step s = .next { s with
      inputs := rest, dual := ⟨0#64, 0#64, 0#64, 0#64, false, false, .ok, 0#64, 0#64, 0#64⟩ })

/-- The invariant of R29 and R33 holds right after reset, with or without the wrapper and whatever the host does
next. -/
def Obligations.ResetMeetsInvariant : Prop :=
  ∀ (present : Bool) (moves : List HostInput), { State.reset with dualPresent := present, inputs := moves }.Inv

/-- Every step from a state that meets the invariant of R29 and R33 gives a state that meets it. -/
def Obligations.StepKeepsInvariant : Prop :=
  ∀ s t : State, s.Inv → step s = .next t → t.Inv

/-- R29: the invariants hold in every state that a run from reset reaches, whatever the host's moves. -/
def Obligations.ReachableStatesMeetInvariant : Prop :=
  ∀ (present : Bool) (moves : List HostInput) (k : Nat) (t : State),
    runSteps k { State.reset with dualPresent := present, inputs := moves } = .next t →
    (t.core.seeded = false → t.core.state = 0#64 ∧ t.core.inc = 0#64) ∧
    (t.core.seeded = true → t.core.inc.getLsbD 0 = true) ∧
    (t.core.busy = true → t.core.seeded = true ∧ 1 ≤ t.core.pbound.toNat ∧
      t.core.pthresh = thresh t.core.pbound ∧ t.core.pthresh.toNat < t.core.pbound.toNat) ∧
    (errBits t.core.err).toNat < 4

/-- R80: the stepper is the wrapped linear congruence with the source's multiplier. -/
def Obligations.LcgStepIsModular : Prop :=
  ∀ s inc : U64, (lcgStep s inc).toNat = (6364136223846793005 * s.toNat + inc.toNat) % 2 ^ 64

/-- R82: the permuter bit by bit, and its independence of bits 26:0. -/
def Obligations.PermuterBitLevel : Prop :=
  ∀ old : U64,
    (∀ j, j ≤ 18 → (xorshifted old).getLsbD j = (old.getLsbD (j + 27) ^^ old.getLsbD (j + 45))) ∧
    (∀ j, 19 ≤ j → j ≤ 31 → (xorshifted old).getLsbD j = old.getLsbD (j + 27)) ∧
    (rotAmount old).toNat = old.toNat / 2 ^ 59 ∧
    (∀ j, j ≤ 31 → (perm old).getLsbD j = (xorshifted old).getLsbD ((j + old.toNat / 2 ^ 59) % 32)) ∧
    (∀ old' : U64, (∀ i, 27 ≤ i → i ≤ 63 → old'.getLsbD i = old.getLsbD i) → perm old' = perm old)

/-- R83: rotation by 0 is the identity, by 31 a left rotation by 1, and by every amount a bijection. -/
def Obligations.RotationCorners : Prop :=
  (∀ old : U64, old.toNat / 2 ^ 59 = 0 → perm old = xorshifted old) ∧
  (∀ old : U64, old.toNat / 2 ^ 59 = 31 →
    perm old = (xorshifted old >>> 31) ||| (xorshifted old <<< 1) ∧ perm old = (xorshifted old).rotateLeft 1) ∧
  (∀ r : U32, r.toNat ≤ 31 → Function.Bijective fun x : U32 => rotr32 x r) ∧
  (∀ old : U64, perm old = (xorshifted old).rotateRight (old.toNat / 2 ^ 59))

/-- R84: NEXT on a seeded block, its result from the pre-advance state, on an unseeded block, and at its corners. -/
def Obligations.NextCompletes : Prop :=
  (∀ s : State, s.core.seeded = true →
    exec .next s = .next { s with core := { s.core with
      state := BitVec.ofNat 64 (6364136223846793005 * s.core.state.toNat + s.core.inc.toNat)
      res := ((((s.core.state >>> 18 ^^^ s.core.state) >>> 27).setWidth 32).rotateRight
        (s.core.state >>> 59).toNat).setWidth 64
      err := .ok } }) ∧
  (∀ s : State, s.core.seeded = false →
    exec .next s = .next { s with core := { s.core with err := .unseeded } }) ∧
  (∀ s : State, s.core.seeded = true → s.core.state = 0#64 →
    exec .next s = .next { s with core := { s.core with state := s.core.inc, res := 0#64, err := .ok } }) ∧
  (∀ s t : State, s.core.state = 0xFFFFFFFFFFFFFFFF#64 → s.core.seeded = true → exec .next s = .next t →
    t.core.res = 0xFFF00001#64) ∧
  (∀ s t : State, execSeq [.seed 42#64 54#64, .next] s = .next t →
    t.core.res = 0xA15C02B7#64 ∧ t.core.state = 0x2B47FED88766BB05#64)

/-- R70, R71 and R75: SEED completes in every state, with the bootstrap's closed form, an odd increment, and nothing
else written but `SEEDED` and `ERR`; R71's example. -/
def Obligations.SeedCompletes : Prop :=
  (∀ (s : State) (seed sel : U64),
    exec (.seed seed sel) s = .next { s with core := { s.core with
      state := BitVec.ofNat 64
        (6364136223846793005 * ((2 * sel.toNat + 1) % 2 ^ 64 + seed.toNat) + (2 * sel.toNat + 1) % 2 ^ 64)
      inc := BitVec.ofNat 64 (2 * sel.toNat + 1)
      seeded := true
      err := .ok } }) ∧
  (∀ (s t : State) (seed sel : U64), exec (.seed seed sel) s = .next t → t.core.inc.getLsbD 0 = true) ∧
  (∀ s t : State, exec (.seed 42#64 54#64) s = .next t →
    t.core.inc = 0x6D#64 ∧ t.core.state = 0x185706B82C2E03F8#64)

/-- R74: bit 63 of the selector has no effect, and distinct bits 62:0 give distinct increments. -/
def Obligations.SelectorTopBitIsIgnored : Prop :=
  (∀ seed sel : U64, seedFn seed sel = seedFn seed (sel ^^^ 0x8000000000000000#64)) ∧
  (∀ seed sel sel' : U64, (seedFn seed sel).2 = (seedFn seed sel').2 ↔ sel.toNat % 2 ^ 63 = sel'.toNat % 2 ^ 63)

/-- R76: for every selector exactly one seed leaves `STATE = 0`, the one the rule names, and the block is seeded. -/
def Obligations.OneSeedGivesStateZero : Prop :=
  (0xC097EF87329E28A5#64 * 0x5851F42D4C957F2D#64 = 1#64) ∧
  (∀ seed sel : U64, (seedFn seed sel).1 = 0#64 ↔
    seed = (0#64 - (seedFn seed sel).2) * 0xC097EF87329E28A5#64 - (seedFn seed sel).2) ∧
  (∀ sel : U64, ∃! seed : U64, (seedFn seed sel).1 = 0#64) ∧
  (∀ (s : State) (seed : U64), (∃ t, exec (.seed seed 0#64) s = .next t ∧ t.core.state = 0#64 ∧ t.core.seeded = true) ↔
    seed = 0x3F681078CD61D75A#64)

/-- R78: whatever two CORE blocks went through before, after the same SEED and the same moves of the host they agree in
`STATE`, `INC`, `SEEDED`, `BUSY` and `ERR` after every transition, and in `RES` unless neither has written it since.
That they agree step by step with the host silent and one wrapper busy rests on the model's choice that CORE draws first
(log 3). -/
def Obligations.SeedForgetsHistory : Prop :=
  ∀ (s s' : State) (seed sel c d c' d' : U64) (rest : List HostInput) (k : Nat),
    s.core.busy = false → s'.core.busy = false → (∀ m ∈ rest, m.port = .core) →
    s.inputs = .command .core ⟨0x01#8, seed, sel, c, d⟩ :: rest →
    s'.inputs = .command .core ⟨0x01#8, seed, sel, c', d'⟩ :: rest →
    ∃ t t', runSteps (k + 1) s = .next t ∧ runSteps (k + 1) s' = .next t' ∧
      t.core.state = t'.core.state ∧ t.core.inc = t'.core.inc ∧ t.core.seeded = t'.core.seeded ∧
      t.core.busy = t'.core.busy ∧ t.core.err = t'.core.err ∧ t.inputs = t'.inputs ∧
      (t.core.res = t'.core.res ∨ t.core.res = s.core.res ∧ t'.core.res = s'.core.res)

/-- R90: after SEED, the k-th NEXT writes the output of `s_{k-1}` and leaves `s_k`; queries, reserved opcodes and
BOUNDED 0 between do not change the sequence. -/
def Obligations.OutputSequence : Prop :=
  ∀ (s : State) (seed sel c d : U64) (cmds : List Command), s.core.busy = false →
    (∀ x ∈ cmds, x.op ≠ 0x01#8 ∧ (x.op = 0x03#8 → x.a.toNat % 2 ^ 32 = 0)) →
    ∃ t, runSteps (cmds.length + 1)
        { s with inputs := .command .core ⟨0x01#8, seed, sel, c, d⟩ :: cmds.map (HostInput.command .core) } = .next t ∧
      t.core.state = stateAfter (seedFn seed sel).1 (seedFn seed sel).2 (cmds.countP fun x => x.op == 0x02#8) ∧
      ∀ x ∈ cmds.getLast?, x.op = 0x02#8 →
        t.core.res = (perm (stateAfter (seedFn seed sel).1 (seedFn seed sel).2
          ((cmds.countP fun x => x.op == 0x02#8) - 1))).setWidth 64

/-- R91: the state after `k` steps in closed form. -/
def Obligations.JumpAhead : Prop :=
  ∀ (s inc : U64) (k : Nat), (stateAfter s inc k).toNat =
    (6364136223846793005 ^ k * s.toNat + inc.toNat * ∑ i ∈ Finset.range k, 6364136223846793005 ^ i) % 2 ^ 64

/-- R89: with an odd increment the stepper visits all 2^64 states before it repeats, from any state; with increment 0
the state 0 is a fixed point. -/
def Obligations.FullPeriod : Prop :=
  (∀ s inc : U64, inc.getLsbD 0 = true →
    (∀ y : U64, ∃ k, k < 2 ^ 64 ∧ stateAfter s inc k = y) ∧
    (∀ n : Nat, stateAfter s inc n = s ↔ 2 ^ 64 ∣ n)) ∧
  lcgStep 0#64 0#64 = 0#64

/-- R100: the threshold at every width, in both of the source's forms, with its bound. -/
def Obligations.ThresholdIsPowerModBound : Prop :=
  ∀ (w : Nat) (bound : BitVec w), bound ≠ 0#w →
    (thresh bound).toNat = (2 ^ w - bound.toNat) % bound.toNat ∧
    (thresh bound).toNat = 2 ^ w % bound.toNat ∧
    (thresh bound).toNat < bound.toNat

/-- R103: over the accepted draws each result comes from exactly the same number of draw values, and fewer than half of
all draw values are rejected. -/
def Obligations.ComparatorIsExact : Prop :=
  ∀ (w : Nat) (bound : BitVec w), bound ≠ 0#w →
    bound.toNat ∣ 2 ^ w - (thresh bound).toNat ∧
    (∀ v, v < bound.toNat →
      ((Finset.range (2 ^ w)).filter fun n =>
        accept (BitVec.ofNat w n) (thresh bound) = true ∧ (reduce (BitVec.ofNat w n) bound).toNat = v).card =
      (2 ^ w - (thresh bound).toNat) / bound.toNat) ∧
    ((Finset.range (2 ^ w)).filter fun n => accept (BitVec.ofNat w n) (thresh bound) = false).card =
      (thresh bound).toNat ∧
    2 * (thresh bound).toNat < 2 ^ w

/-- R104 with the order of checks of R155: the acceptance of BOUNDED, its two errors, and its corners. -/
def Obligations.BoundedAcceptance : Prop :=
  (∀ (s : State) (bound : U32), s.core.seeded = false →
    exec (.bounded bound) s = .next { s with core := { s.core with err := .unseeded } }) ∧
  (∀ s : State, s.core.seeded = true →
    exec (.bounded 0#32) s = .next { s with core := { s.core with err := .boundZero } }) ∧
  (∀ (s : State) (bound : U32), s.core.seeded = true → bound ≠ 0#32 →
    exec (.bounded bound) s = .next { s with core := { s.core with
      pbound := bound
      pthresh := BitVec.ofNat 32 ((2 ^ 32 - bound.toNat) % bound.toNat)
      busy := true
      err := .ok } }) ∧
  (∀ b c d : U64, decode .core ⟨0x03#8, 0x0000000100000000#64, b, c, d⟩ = .ok (.bounded 0#32))

/-- R105: one draw of a BOUNDED in progress, whether the host has nothing more to do, has a command waiting, or leaves
the block to its transition; and the result for a bound that is a power of two. That the step is CORE's draw when the
wrapper is busy too and the host has no move left, and that the wrapper then stands still, is the model's choice (logs 3
and 15). -/
def Obligations.CoreDraw : Prop :=
  (∀ s : State, s.core.busy = true → s.core.pbound ≠ 0#32 → s.coreHeld →
    step s = .next { s with core :=
      if s.core.pthresh.toNat ≤ (perm s.core.state).toNat then
        { s.core with
          state := BitVec.ofNat 64 (6364136223846793005 * s.core.state.toNat + s.core.inc.toNat)
          res := BitVec.ofNat 64 ((perm s.core.state).toNat % s.core.pbound.toNat)
          busy := false }
      else
        { s.core with
          state := BitVec.ofNat 64 (6364136223846793005 * s.core.state.toNat + s.core.inc.toNat) } }) ∧
  (∀ (s : State) (rest : List HostInput), s.core.busy = true → s.core.pbound ≠ 0#32 →
    s.inputs = .pass .core :: rest →
    step s = .next { s with inputs := rest, core :=
      if s.core.pthresh.toNat ≤ (perm s.core.state).toNat then
        { s.core with
          state := BitVec.ofNat 64 (6364136223846793005 * s.core.state.toNat + s.core.inc.toNat)
          res := BitVec.ofNat 64 ((perm s.core.state).toNat % s.core.pbound.toNat)
          busy := false }
      else
        { s.core with
          state := BitVec.ofNat 64 (6364136223846793005 * s.core.state.toNat + s.core.inc.toNat) } }) ∧
  (∀ (r : U32) (j : Nat), j < 32 →
    thresh (BitVec.twoPow 32 j) = 0#32 ∧
    reduce r (BitVec.twoPow 32 j) = r &&& (BitVec.twoPow 32 j - 1#32))

/-- R106: the number of draws of a BOUNDED in progress is the least accepted one, at most 2^64. That each step is a
draw when the wrapper is busy too and the host has no move left is the model's choice: CORE draws first (log 3). -/
def Obligations.DrawCount : Prop :=
  ∀ s : State, s.Inv → s.core.busy = true → s.coreHeld →
    ∃ k, 1 ≤ k ∧ k ≤ 2 ^ 64 ∧
      accept (perm (stateAfter s.core.state s.core.inc (k - 1))) s.core.pthresh = true ∧
      (∀ j, 1 ≤ j → j < k → accept (perm (stateAfter s.core.state s.core.inc (j - 1))) s.core.pthresh = false) ∧
      (∀ j, j < k → ∃ t, runSteps j s = .next t ∧ t.core.busy = true) ∧
      ∃ t, runSteps k s = .next t ∧ t.core.busy = false ∧
        t.core.state = stateAfter s.core.state s.core.inc k

/-- R107: an accepted BOUNDED ends, after its draws, in the state that the atomic function gives, when the host has no
further move or a command waiting on the CORE port. With the wrapper busy too, that every step is a draw when the host
has no move left is the model's choice: CORE draws first (log 3); and so is that the wrapper stands still in all these
steps, with a command waiting as without (log 15). `BoundedEndsAmongHostMoves` and `BoundedEndIsAtomic` are about the host's
other moves. -/
def Obligations.BoundedRunIsAtomic : Prop :=
  ∀ (s : State) (c : Command) (bound : U32) (rest : List HostInput),
    s.core.seeded = true → s.core.inc.getLsbD 0 = true → s.core.busy = false → bound ≠ 0#32 →
    c.op = 0x03#8 → c.a.setWidth 32 = bound → s.inputs = .command .core c :: rest →
    State.coreHeld { s with inputs := rest } →
    ∃ k res last, 1 ≤ k ∧ k ≤ 2 ^ 64 ∧ boundedFn (2 ^ 64) s.core.state s.core.inc bound = some (res, last) ∧
      runSteps (k + 1) s = .next { s with inputs := rest, core := { s.core with
        state := last
        res := res.setWidth 64
        busy := false
        err := .ok
        pbound := bound
        pthresh := thresh bound } }

/-- R111: the transition that ends a BOUNDED, unless it is a reset, writes a result below the bound. -/
def Obligations.BoundedResultInRange : Prop :=
  ∀ s t : State, s.Inv → s.core.busy = true → step s = .next t → t.core.busy = false →
    (∀ presented rest, s.inputs ≠ .reset .core presented :: rest) →
    t.core.pbound = s.core.pbound ∧ t.core.res.toNat < s.core.pbound.toNat ∧ t.core.res.toNat < 2 ^ 32

/-- R120 to R123: the queries complete in every state and write `RES` and `ERR` only; what RDSTATE and RDINC answer
before any SEED and after one, and that RDSTATE does not change what a later NEXT does. -/
def Obligations.QueriesComplete : Prop :=
  (∀ s : State, exec .footprint s = .next { s with core := { s.core with res := 16#64, err := .ok } }) ∧
  (∀ s : State, exec .rdstate s = .next { s with core := { s.core with res := s.core.state, err := .ok } }) ∧
  (∀ s : State, exec .rdinc s = .next { s with core := { s.core with res := s.core.inc, err := .ok } }) ∧
  (∀ s t u : State, s.Inv → exec .rdstate s = .next t → exec .rdinc s = .next u →
    (s.core.seeded = false → t.core.res = 0#64 ∧ u.core.res = 0#64) ∧
    (s.core.seeded = true → u.core.res.getLsbD 0 = true)) ∧
  (∀ s t : State, s.core.seeded = true → exec .rdstate s = .next t → exec .next t = exec .next s)

/-- R20, R21 and R24: `INC` and `SEEDED` change only by an accepted SEED or by reset, and `STATE` also by an accepted
NEXT and while a BOUNDED draws. -/
def Obligations.WritersOfGeneratorState : Prop :=
  ∀ s t : State, step s = .next t →
    ((t.core.inc ≠ s.core.inc ∨ t.core.seeded ≠ s.core.seeded) →
      (∃ c rest, s.inputs = .command .core c :: rest ∧ c.op = 0x01#8 ∧ s.core.busy = false) ∨
      (∃ presented rest, s.inputs = .reset .core presented :: rest)) ∧
    (t.core.state ≠ s.core.state →
      (∃ c rest, s.inputs = .command .core c :: rest ∧ (c.op = 0x01#8 ∨ c.op = 0x02#8) ∧ s.core.busy = false) ∨
      (∃ presented rest, s.inputs = .reset .core presented :: rest) ∨ s.core.busy = true)

/-- R30: what each CORE command leaves unchanged (SEED, NEXT, BOUNDED, FOOTPRINT, RDSTATE, RDINC). -/
def Obligations.CoreCommandFrame : Prop :=
  ∀ (i : Instr) (s t : State), i.port = .core → exec i s = .next t →
    t.dual = s.dual ∧ t.dualPresent = s.dualPresent ∧ t.inputs = s.inputs ∧ t.hostRead = s.hostRead ∧
    ((∀ seed sel, i ≠ .seed seed sel) → t.core.inc = s.core.inc ∧ t.core.seeded = s.core.seeded) ∧
    ((∀ seed sel, i ≠ .seed seed sel) → i ≠ .next → t.core.state = s.core.state) ∧
    ((∀ bound, i ≠ .bounded bound) →
      t.core.busy = s.core.busy ∧ t.core.pbound = s.core.pbound ∧ t.core.pthresh = s.core.pthresh) ∧
    ((∃ seed sel, i = .seed seed sel) ∨ (∃ bound, i = .bounded bound) → t.core.res = s.core.res)

/-- What each DUAL command leaves unchanged (DSEED, DNEXT, DBOUNDED, DFOOTPRINT). -/
def Obligations.DualCommandFrame : Prop :=
  ∀ (i : Instr) (s t : State), i.port = .dual → exec i s = .next t →
    t.core = s.core ∧ t.dualPresent = s.dualPresent ∧ t.inputs = s.inputs ∧ t.hostRead = s.hostRead ∧
    ((∀ s1 s2 q1 q2, i ≠ .dseed s1 s2 q1 q2) →
      t.dual.inc0 = s.dual.inc0 ∧ t.dual.inc1 = s.dual.inc1 ∧ t.dual.seeded = s.dual.seeded) ∧
    ((∀ s1 s2 q1 q2, i ≠ .dseed s1 s2 q1 q2) → i ≠ .dnext →
      t.dual.state0 = s.dual.state0 ∧ t.dual.state1 = s.dual.state1) ∧
    ((∀ bound, i ≠ .dbounded bound) →
      t.dual.busy = s.dual.busy ∧ t.dual.pbound = s.dual.pbound ∧ t.dual.pthresh = s.dual.pthresh) ∧
    ((∃ s1 s2 q1 q2, i = .dseed s1 s2 q1 q2) ∨ (∃ bound, i = .dbounded bound) → t.dual.res = s.dual.res)

/-- R150: a command that reports an error has written the code and nothing else. -/
def Obligations.ErrorReportIsPrecise : Prop :=
  ∀ (i : Instr) (s t : State), exec i s = .next t → t.errOn i.port ≠ .ok →
    t = (match i.port with
      | .core => { s with core := { s.core with err := t.core.err } }
      | .dual => { s with dual := { s.dual with err := t.dual.err } })

/-- R159: after an error the next command on that port does what it would have done without it, and overwrites the
code. -/
def Obligations.ErrorsDoNotStick : Prop :=
  ∀ (i : Instr) (e : ErrCode) (s : State), exec i (fail i.port e s) = exec i s

/-- R132: the correction complements exactly when bits 62:0 agree, and after it they differ, and so do the
increments. -/
def Obligations.SelectorCorrection : Prop :=
  ∀ sel1 sel2 : U64,
    (sel1.toNat % 2 ^ 63 = sel2.toNat % 2 ^ 63 → correct sel1 sel2 = ~~~sel2) ∧
    (sel1.toNat % 2 ^ 63 ≠ sel2.toNat % 2 ^ 63 → correct sel1 sel2 = sel2) ∧
    sel1.toNat % 2 ^ 63 ≠ (correct sel1 sel2).toNat % 2 ^ 63 ∧
    incrementOf sel1 ≠ incrementOf (correct sel1 sel2) ∧
    (sel1.toNat % 2 ^ 63 = sel2.toNat % 2 ^ 63 →
      ∀ j, j < 63 → (correct sel1 sel2).getLsbD j = !sel1.getLsbD j)

/-- R133 and R139: DSEED completes on a machine with the wrapper, in every state, and its two increments are odd and
differ; R133's example. -/
def Obligations.DseedCompletes : Prop :=
  (∀ (s : State) (seed1 seed2 sel1 sel2 : U64), s.dualPresent = true →
    exec (.dseed seed1 seed2 sel1 sel2) s = .next { s with dual := { s.dual with
      state0 := (seedFn seed1 sel1).1
      inc0 := BitVec.ofNat 64 (2 * sel1.toNat + 1)
      state1 := (seedFn seed2 (correct sel1 sel2)).1
      inc1 := BitVec.ofNat 64 (2 * (correct sel1 sel2).toNat + 1)
      seeded := true
      err := .ok } }) ∧
  (∀ (s t : State) (seed1 seed2 sel1 sel2 : U64), exec (.dseed seed1 seed2 sel1 sel2) s = .next t →
    t.dual.inc0 ≠ t.dual.inc1 ∧ t.dual.inc0.getLsbD 0 = true ∧ t.dual.inc1.getLsbD 0 = true) ∧
  (∀ s t : State, exec (.dseed 42#64 54#64 54#64 54#64) s = .next t →
    t.dual.inc0 = 0x6D#64 ∧ t.dual.state0 = 0x185706B82C2E03F8#64 ∧
    t.dual.inc1 = 0xFFFFFFFFFFFFFF93#64 ∧ t.dual.state1 = 0x06648A448BE1ACE8#64)

/-- R134: DNEXT steps each generator once and puts gen0's output above gen1's; on an unseeded wrapper it reports. -/
def Obligations.DnextCompletes : Prop :=
  (∀ s : State, s.dualPresent = true → s.dual.seeded = true →
    exec .dnext s = .next { s with dual := { s.dual with
      state0 := BitVec.ofNat 64 (6364136223846793005 * s.dual.state0.toNat + s.dual.inc0.toNat)
      state1 := BitVec.ofNat 64 (6364136223846793005 * s.dual.state1.toNat + s.dual.inc1.toNat)
      res := perm s.dual.state0 ++ perm s.dual.state1
      err := .ok } }) ∧
  (∀ s : State, s.dualPresent = true → s.dual.seeded = false →
    exec .dnext s = .next { s with dual := { s.dual with err := .unseeded } }) ∧
  (∀ s t : State, execSeq [.dseed 42#64 54#64 54#64 54#64, .dnext] s = .next t →
    t.dual.res = 0xA15C02B7CC917BB5#64)

/-- R136 with the order of checks of R155: the acceptance of DBOUNDED, its two errors, and its corners. -/
def Obligations.DboundedAcceptance : Prop :=
  (∀ (s : State) (bound : U64), s.dualPresent = true → s.dual.seeded = false →
    exec (.dbounded bound) s = .next { s with dual := { s.dual with err := .unseeded } }) ∧
  (∀ s : State, s.dualPresent = true → s.dual.seeded = true →
    exec (.dbounded 0#64) s = .next { s with dual := { s.dual with err := .boundZero } }) ∧
  (∀ (s : State) (bound : U64), s.dualPresent = true → s.dual.seeded = true → bound ≠ 0#64 →
    exec (.dbounded bound) s = .next { s with dual := { s.dual with
      pbound := bound
      pthresh := BitVec.ofNat 64 ((2 ^ 64 - bound.toNat) % bound.toNat)
      busy := true
      err := .ok } }) ∧
  thresh 1#64 = 0#64 ∧ thresh 0x8000000000000001#64 = 0x7FFFFFFFFFFFFFFF#64 ∧
  thresh 0xFFFFFFFFFFFFFFFF#64 = 1#64 ∧ thresh 6#64 = 4#64

/-- R137: one draw of a DBOUNDED in progress, when the host leaves the wrapper to its transition, has a command waiting
on its port, or has no move left (then with no BOUNDED in progress, whose draws the model takes first, log 3). That a
busy CORE block stands still in the step is the model's choice (log 15). -/
def Obligations.WrapperDraw : Prop :=
  ∀ (s : State) (rest later : List HostInput), s.dualPresent = true → s.dual.busy = true → s.dual.pbound ≠ 0#64 →
    (s.inputs = .pass .dual :: rest ∧ later = rest ∨
      (∃ c, s.inputs = .command .dual c :: rest) ∧ later = s.inputs ∨
      s.inputs = [] ∧ s.core.busy = false ∧ later = []) →
    step s = .next { s with inputs := later, dual :=
      if s.dual.pthresh.toNat ≤ 2 ^ 32 * (perm s.dual.state0).toNat + (perm s.dual.state1).toNat then
        { s.dual with
          state0 := lcgStep s.dual.state0 s.dual.inc0
          state1 := lcgStep s.dual.state1 s.dual.inc1
          res := BitVec.ofNat 64
            ((2 ^ 32 * (perm s.dual.state0).toNat + (perm s.dual.state1).toNat) % s.dual.pbound.toNat)
          busy := false }
      else
        { s.dual with
          state0 := lcgStep s.dual.state0 s.dual.inc0
          state1 := lcgStep s.dual.state1 s.dual.inc1 } }

/-- R137: an accepted DBOUNDED ends, after at most 2^64 draws, in the state that the atomic function gives, when the host
has a command waiting on the DUAL port, or has no further move and no BOUNDED is in progress (with one in progress CORE
draws first, which is the model's choice, log 3). That nothing else changes while a busy CORE block stands behind the
waiting command is the model's choice too (log 15). `DboundedEndsAmongHostMoves` and `DboundedEndIsAtomic` are about the
host's other moves, and about a silent host with a BOUNDED in progress. -/
def Obligations.DboundedRunIsAtomic : Prop :=
  ∀ (s : State) (c : Command) (rest : List HostInput), s.dualPresent = true →
    s.dual.seeded = true → s.dual.inc0.getLsbD 0 = true → s.dual.inc1.getLsbD 0 = true → s.dual.busy = false →
    c.op = 0x13#8 → c.a ≠ 0#64 → s.inputs = .command .dual c :: rest →
    (rest = [] ∧ s.core.busy = false ∨ ∃ c' later, rest = .command .dual c' :: later) →
    ∃ k res last0 last1, 1 ≤ k ∧ k ≤ 2 ^ 64 ∧
      dboundedFn (2 ^ 64) s.dual.state0 s.dual.inc0 s.dual.state1 s.dual.inc1 c.a = some (res, last0, last1) ∧
      res.toNat < c.a.toNat ∧
      runSteps (k + 1) s = .next { s with
        inputs := rest
        dual := { s.dual with
          state0 := last0
          state1 := last1
          res := res
          busy := false
          err := .ok
          pbound := c.a
          pthresh := thresh c.a } }

/-- R138: DFOOTPRINT completes on a machine with the wrapper, in every state. -/
def Obligations.DfootprintCompletes : Prop :=
  ∀ s : State, s.dualPresent = true →
    exec .dfootprint s = .next { s with dual := { s.dual with res := 32#64, err := .ok } }

/-- R140: the wrapper's output is that of two CORE blocks, the second seeded with the corrected selector, driven in
lockstep and concatenated. -/
def Obligations.ConcatenationOfTwoCores : Prop :=
  ∀ (s sx sy : State) (seed1 seed2 sel1 sel2 : U64) (n : Nat), s.dualPresent = true → 1 ≤ n →
    ∃ t tx ty, execSeq (.dseed seed1 seed2 sel1 sel2 :: List.replicate n .dnext) s = .next t ∧
      execSeq (.seed seed1 sel1 :: List.replicate n .next) sx = .next tx ∧
      execSeq (.seed seed2 (correct sel1 sel2) :: List.replicate n .next) sy = .next ty ∧
      t.dual.res = tx.core.res <<< 32 ||| ty.core.res ∧
      t.dual.state0 = tx.core.state ∧ t.dual.state1 = ty.core.state

/-- R141: the pair of generator states repeats after exactly 2^64 DNEXTs. -/
def Obligations.WrapperPeriod : Prop :=
  ∀ (s : State) (n : Nat), s.dualPresent = true → s.dual.seeded = true →
    s.dual.inc0.getLsbD 0 = true → s.dual.inc1.getLsbD 0 = true →
    ∃ t, execSeq (List.replicate n .dnext) s = .next t ∧
      (t.dual.state0 = s.dual.state0 ∧ t.dual.state1 = s.dual.state1 ↔ 2 ^ 64 ∣ n)

/-- R176: a command presented on a busy port waits, unharmed, while the block draws, and is accepted after at most 2^64
draws. That every step of the wait is a draw of that block, while a busy other block stands still, is the model's choice
(log 15). -/
def Obligations.BusyHoldEnds : Prop :=
  ∀ (s : State) (p : Port) (c : Command) (rest : List HostInput), s.Inv → s.hasPort p = true → s.busyOn p = true →
    s.inputs = .command p c :: rest →
    ∃ k, 1 ≤ k ∧ k ≤ 2 ^ 64 ∧
      (∀ j, j < k → ∃ u, runSteps j s = .next u ∧ u.busyOn p = true ∧ u.inputs = s.inputs ∧
        u.errOn p = s.errOn p) ∧
      ∃ t, runSteps k s = .next t ∧ t.busyOn p = false ∧ t.inputs = s.inputs ∧
        step t = acceptCommand p c { t with inputs := rest }

/-- R43 and R46: a host's read returns the register as the latest transition left it and changes no register. The record
of what the host read is the model's own (log 8), and so is that a busy block stands still in the step (log 15). -/
def Obligations.ReadsHaveNoSideEffect : Prop :=
  (∀ (s : State) (rest : List HostInput), s.inputs = .read .res :: rest →
    step s = .next { s with inputs := rest, hostRead := s.core.res }) ∧
  (∀ (s : State) (rest : List HostInput), s.inputs = .read .status :: rest →
    step s = .next { s with inputs := rest, hostRead := (statusWord s.core).setWidth 64 }) ∧
  (∀ (s : State) (rest : List HostInput), s.dualPresent = true → s.inputs = .read .dres :: rest →
    step s = .next { s with inputs := rest, hostRead := s.dual.res }) ∧
  (∀ (s : State) (rest : List HostInput), s.dualPresent = true → s.inputs = .read .dstatus :: rest →
    step s = .next { s with inputs := rest, hostRead := (dstatusWord s.dual).setWidth 64 })

/-- R165: between commands the machine holds its state. -/
def Obligations.WaitingMachineHoldsState : Prop :=
  ∀ s : State, s.quiet → step s = .next s

/-- Every step completes, but for a move of the host at a wrapper that is not there (R6, R14; the stop is the model's
choice, log 4). -/
def Obligations.OnlyAbsentWrapperStops : Prop :=
  ∀ s : State, (∃ t, step s = .next t) ∨
    s.dualPresent = false ∧ step s = .fault .dualPortAbsent ∧ ∃ m rest, s.inputs = m :: rest ∧ m.port = .dual

/-- On a machine without the wrapper each DUAL command stops, and so does any other move for it (R6; the stop is the
model's choice, log 4). -/
def Obligations.AbsentWrapperStops : Prop :=
  (∀ (i : Instr) (s : State), i.port = .dual → s.dualPresent = false → exec i s = .fault .dualPortAbsent) ∧
  (∀ (s : State) (m : HostInput) (rest : List HostInput), s.inputs = m :: rest → m.port = .dual →
    s.dualPresent = false → step s = .fault .dualPortAbsent)

/-- R130 and R163: a move for one block neither changes the other's registers nor depends on them. That a busy other
block stands still in the step is the model's choice (log 15), and so is that a reset of one block leaves the other alone
(log 5). -/
def Obligations.BlocksAreIndependent : Prop :=
  (∀ (s : State) (d : DualRegs) (m : HostInput) (rest : List HostInput), s.inputs = m :: rest → m.port = .core →
    ∃ t, step s = .next t ∧ t.dual = s.dual ∧ step { s with dual := d } = .next { t with dual := d }) ∧
  (∀ (s : State) (r : CoreRegs) (m : HostInput) (rest : List HostInput), s.inputs = m :: rest → m.port = .dual →
    s.dualPresent = true →
    ∃ t, step s = .next t ∧ t.core = s.core ∧ step { s with core := r } = .next { t with core := r })

/-- R23 with the codes of R25: the layout of `STATUS`, and `DSTATUS` with the same layout (R32). -/
def Obligations.StatusLayout : Prop :=
  (∀ r : CoreRegs, (statusWord r).getLsbD 0 = r.busy ∧ (statusWord r).getLsbD 1 = r.seeded ∧
    (statusWord r).toNat / 4 = (errBits r.err).toNat ∧ ∀ j, 5 ≤ j → (statusWord r).getLsbD j = false) ∧
  (∀ r : DualRegs, (dstatusWord r).getLsbD 0 = r.busy ∧ (dstatusWord r).getLsbD 1 = r.seeded ∧
    (dstatusWord r).toNat / 4 = (errBits r.err).toNat ∧ ∀ j, 5 ≤ j → (dstatusWord r).getLsbD j = false) ∧
  errBits .ok = 0#3 ∧ errBits .illegalOp = 1#3 ∧ errBits .unseeded = 2#3 ∧ errBits .boundZero = 3#3

/-- A step runs the decoded command: when the host's next move presents a command that decodes to a well-formed one on
a port that is not busy, the step is `exec` of it, with the host's move used up. That a busy other block stands still in
the step is the model's choice (log 15). -/
def Obligations.StepRunsDecodedCommand : Prop :=
  ∀ (s : State) (p : Port) (c : Command) (rest : List HostInput) (i : Instr),
    s.inputs = .command p c :: rest → decode p c = .ok i → i.wellFormed s.dualPresent = true → s.busyOn p = false →
    step s = exec i { s with inputs := rest }

/-- A command placed by `withFetchWord` is run by the very next step, on a port made ready for it (log 9); a busy
other block stands still in that step (log 15). -/
def Obligations.PlacedWordRunsNext : Prop :=
  ∀ (s : State) (nbits w : Nat) (i : Instr), decodeTableWord nbits w = some i →
    step (s.withFetchWord nbits w) = exec i (readyPort i.port s)

/-- R57: a line of a listing whose operands fit becomes the command with those operands' values, and a line with an
operand that does not fit is an error and not a truncation. -/
def Obligations.ListingOperandsFit : Prop :=
  (∀ seed sel : Nat,
    (seed < 2 ^ 64 ∧ sel < 2 ^ 64 → ∃ c x y, assemble .core (.seed seed sel) = .ok [.command .core c] ∧
      decode .core c = .ok (.seed x y) ∧ x.toNat = seed ∧ y.toNat = sel) ∧
    (¬(seed < 2 ^ 64 ∧ sel < 2 ^ 64) → assemble .core (.seed seed sel) = .error .operandTooWide)) ∧
  (∀ bound : Nat,
    (bound < 2 ^ 32 → ∃ c x, assemble .core (.bounded bound) = .ok [.command .core c] ∧
      decode .core c = .ok (.bounded x) ∧ x.toNat = bound) ∧
    (2 ^ 32 ≤ bound → assemble .core (.bounded bound) = .error .operandTooWide)) ∧
  (∀ s1 s2 q1 q2 : Nat,
    (s1 < 2 ^ 64 ∧ s2 < 2 ^ 64 ∧ q1 < 2 ^ 64 ∧ q2 < 2 ^ 64 →
      ∃ c x1 x2 y1 y2, assemble .dual (.dseed s1 s2 q1 q2) = .ok [.command .dual c] ∧
        decode .dual c = .ok (.dseed x1 x2 y1 y2) ∧
        x1.toNat = s1 ∧ x2.toNat = s2 ∧ y1.toNat = q1 ∧ y2.toNat = q2) ∧
    (¬(s1 < 2 ^ 64 ∧ s2 < 2 ^ 64 ∧ q1 < 2 ^ 64 ∧ q2 < 2 ^ 64) →
      assemble .dual (.dseed s1 s2 q1 q2) = .error .operandTooWide)) ∧
  (∀ bound : Nat,
    (bound < 2 ^ 64 → ∃ c x, assemble .dual (.dbounded bound) = .ok [.command .dual c] ∧
      decode .dual c = .ok (.dbounded x) ∧ x.toNat = bound) ∧
    (2 ^ 64 ≤ bound → assemble .dual (.dbounded bound) = .error .operandTooWide))

/-- R107 with other moves of the host after the acceptance: an accepted BOUNDED ends in the state that the atomic function
gives, whatever reads and waits of the host come next, for either block. The steps in between are the model's
interleaving (logs 2, 3 and 15); the end state is the rule's. -/
def Obligations.BoundedEndsAmongHostMoves : Prop :=
  ∀ (s : State) (c : Command) (bound : U32) (moves later : List HostInput),
    s.core.seeded = true → s.core.inc.getLsbD 0 = true → s.core.busy = false → bound ≠ 0#32 →
    c.op = 0x03#8 → c.a.setWidth 32 = bound → s.inputs = .command .core c :: (moves ++ later) →
    (∀ m ∈ moves, s.hasPort m.port = true ∧ ((∃ reg, m = .read reg) ∨ ∃ p, m = .pass p)) →
    State.coreHeld { s with inputs := later } →
    ∃ k t res last, boundedFn (2 ^ 64) s.core.state s.core.inc bound = some (res, last) ∧
      runSteps k s = .next t ∧ t.inputs = later ∧
      t.core = { s.core with
        state := last
        res := res.setWidth 64
        busy := false
        err := .ok
        pbound := bound
        pthresh := thresh bound }

/-- R107 whatever the host does: when an accepted BOUNDED ends and no reset of the block intervened, the block is in the
state that the atomic function gives. The host's moves, for either block, are any (log 2). -/
def Obligations.BoundedEndIsAtomic : Prop :=
  ∀ (s t : State) (c : Command) (bound : U32) (rest : List HostInput) (n : Nat),
    s.core.seeded = true → s.core.inc.getLsbD 0 = true → s.core.busy = false → bound ≠ 0#32 →
    c.op = 0x03#8 → c.a.setWidth 32 = bound → s.inputs = .command .core c :: rest →
    runSteps (n + 1) s = .next t → t.core.busy = false →
    (∀ j u, j < n → runSteps (j + 1) s = .next u →
      u.core.busy = true ∧ ∀ presented later, u.inputs ≠ .reset .core presented :: later) →
    ∃ res last, boundedFn (2 ^ 64) s.core.state s.core.inc bound = some (res, last) ∧
      t.core = { s.core with
        state := last
        res := res.setWidth 64
        busy := false
        err := .ok
        pbound := bound
        pthresh := thresh bound }

/-- R137 with other moves of the host after the acceptance: an accepted DBOUNDED ends in the state that the atomic
function gives, whatever reads, waits and CORE moves (commands and resets among them) come next, and with a silent host
also while a BOUNDED is in progress. The steps in between are the model's interleaving (logs 2, 3, 5 and 15); the end
state is the rule's. -/
def Obligations.DboundedEndsAmongHostMoves : Prop :=
  ∀ (s : State) (c : Command) (moves later : List HostInput), s.Inv →
    s.dualPresent = true → s.dual.seeded = true → s.dual.busy = false → c.op = 0x13#8 → c.a ≠ 0#64 →
    s.inputs = .command .dual c :: (moves ++ later) →
    (∀ m ∈ moves, m.port = .core ∨ (∃ reg, m = .read reg) ∨ ∃ p, m = .pass p) →
    (later = [] ∨ ∃ c' rest, later = .command .dual c' :: rest) →
    ∃ k t res last0 last1,
      dboundedFn (2 ^ 64) s.dual.state0 s.dual.inc0 s.dual.state1 s.dual.inc1 c.a = some (res, last0, last1) ∧
      res.toNat < c.a.toNat ∧ runSteps k s = .next t ∧ t.inputs = later ∧
      t.dual = { s.dual with
        state0 := last0
        state1 := last1
        res := res
        busy := false
        err := .ok
        pbound := c.a
        pthresh := thresh c.a }

/-- R137 whatever the host does: when an accepted DBOUNDED ends and no reset of the wrapper intervened, the wrapper is in
the state that the atomic function gives. The host's moves, for either block, are any (log 2). -/
def Obligations.DboundedEndIsAtomic : Prop :=
  ∀ (s t : State) (c : Command) (rest : List HostInput) (n : Nat), s.dualPresent = true →
    s.dual.seeded = true → s.dual.inc0.getLsbD 0 = true → s.dual.inc1.getLsbD 0 = true → s.dual.busy = false →
    c.op = 0x13#8 → c.a ≠ 0#64 → s.inputs = .command .dual c :: rest →
    runSteps (n + 1) s = .next t → t.dual.busy = false →
    (∀ j u, j < n → runSteps (j + 1) s = .next u →
      u.dual.busy = true ∧ ∀ presented later, u.inputs ≠ .reset .dual presented :: later) →
    ∃ res last0 last1,
      dboundedFn (2 ^ 64) s.dual.state0 s.dual.inc0 s.dual.state1 s.dual.inc1 c.a = some (res, last0, last1) ∧
      res.toNat < c.a.toNat ∧
      t.dual = { s.dual with
        state0 := last0
        state1 := last1
        res := res
        busy := false
        err := .ok
        pbound := c.a
        pthresh := thresh c.a }
end

