-- ==== Sys2Proof/Laws/Datapath.lean ====
section
/-! SUPPORT. What the datapath's functions answer, in terms of Nat arithmetic and single bits; later proofs cite these
and do not unfold the functions. -/

namespace Sys2Proof.Machine

/-- The stepper as arithmetic modulo 2^64 (R80). -/
theorem lcgStep_toNat (s inc : U64) :
    (lcgStep s inc).toNat = (Config.multiplier.toNat * s.toNat + inc.toNat) % 2 ^ 64 := by
  rw [lcgStep, BitVec.toNat_add, BitVec.toNat_mul, Nat.mod_add_mod]

/-- The first bootstrap step leaves the increment (R70). -/
theorem lcgStep_zero (inc : U64) : lcgStep 0#64 inc = inc := by
  simp [lcgStep]

/-- A shift by no multiple of 2 leaves the low bit set (R75). -/
theorem incrementOf_odd (sel : U64) : (incrementOf sel).getLsbD 0 = true := by
  simp [incrementOf]

/-- For a nonzero divisor the remainder is the unsigned one (R10). -/
theorem umod_of_ne_zero {w : Nat} (a : BitVec w) {b : BitVec w} (h : b ≠ 0#w) : umod a b = a % b := by
  simp [umod, h]

/-- The remainder is below the divisor (R10). -/
theorem umod_lt {w : Nat} (a : BitVec w) {b : BitVec w} (h : b ≠ 0#w) : (umod a b).toNat < b.toNat := by
  rw [umod_of_ne_zero a h, BitVec.toNat_umod]
  exact Nat.mod_lt _ (Nat.pos_of_ne_zero fun h0 => h (BitVec.eq_of_toNat_eq (by simpa using h0)))

/-- The comparator accepts exactly the draws from the threshold on (R101). -/
theorem accept_iff {w : Nat} (r t : BitVec w) : accept r t = true ↔ t.toNat ≤ r.toNat := by
  simp [accept, BitVec.ule]

/-- The comparator rejects exactly the draws below the threshold (R101). -/
theorem accept_eq_false_iff {w : Nat} (r t : BitVec w) : accept r t = false ↔ r.toNat < t.toNat := by
  simp [accept, BitVec.ule]

/-- The corrected selector, when the two agree in bits 62:0 (R132). -/
theorem correct_of_eq {sel1 sel2 : U64} (h : sel1 &&& Config.dualMask = sel2 &&& Config.dualMask) :
    correct sel1 sel2 = ~~~sel2 := by
  simp [correct, h]

/-- The corrected selector, when the two differ in bits 62:0 (R132). -/
theorem correct_of_ne {sel1 sel2 : U64} (h : sel1 &&& Config.dualMask ≠ sel2 &&& Config.dualMask) :
    correct sel1 sel2 = sel2 := by
  simp [correct, h]

/-- One more step of the sequence, taken at its start. -/
theorem stateAfter_succ' (s inc : U64) (k : Nat) : stateAfter s inc (k + 1) = stateAfter (lcgStep s inc) inc k := by
  induction k with
  | zero => rfl
  | succ k ih => rw [stateAfter, ih, ← stateAfter]

end Sys2Proof.Machine
end

