-- ==== Sys2Proof/Laws/State.lean ====
section
/-! SUPPORT. What each field holds after each named update, so that no later proof unfolds a record update. -/

namespace Sys2Proof.Machine

variable (s : State) (f : CoreRegs → CoreRegs) (g : DualRegs → DualRegs) (e : ErrCode) (v : U64) (port : Port) (cmd : Command)

@[simp] theorem mapCore_dualPresent : (s.mapCore f).dualPresent = s.dualPresent := rfl

@[simp] theorem mapCore_core : (s.mapCore f).core = f s.core := rfl

@[simp] theorem mapCore_dual : (s.mapCore f).dual = s.dual := rfl

@[simp] theorem mapCore_inputs : (s.mapCore f).inputs = s.inputs := rfl

@[simp] theorem mapCore_hostRead : (s.mapCore f).hostRead = s.hostRead := rfl

@[simp] theorem mapDual_dualPresent : (s.mapDual g).dualPresent = s.dualPresent := rfl

@[simp] theorem mapDual_core : (s.mapDual g).core = s.core := rfl

@[simp] theorem mapDual_dual : (s.mapDual g).dual = g s.dual := rfl

@[simp] theorem mapDual_inputs : (s.mapDual g).inputs = s.inputs := rfl

@[simp] theorem mapDual_hostRead : (s.mapDual g).hostRead = s.hostRead := rfl

@[simp] theorem coreFail_dualPresent : (coreFail e s).dualPresent = s.dualPresent := rfl

@[simp] theorem coreFail_core_state : (coreFail e s).core.state = s.core.state := rfl

@[simp] theorem coreFail_core_inc : (coreFail e s).core.inc = s.core.inc := rfl

@[simp] theorem coreFail_core_busy : (coreFail e s).core.busy = s.core.busy := rfl

@[simp] theorem coreFail_core_seeded : (coreFail e s).core.seeded = s.core.seeded := rfl

@[simp] theorem coreFail_core_err : (coreFail e s).core.err = e := rfl

@[simp] theorem coreFail_core_res : (coreFail e s).core.res = s.core.res := rfl

@[simp] theorem coreFail_core_pbound : (coreFail e s).core.pbound = s.core.pbound := rfl

@[simp] theorem coreFail_core_pthresh : (coreFail e s).core.pthresh = s.core.pthresh := rfl

@[simp] theorem coreFail_dual : (coreFail e s).dual = s.dual := rfl

@[simp] theorem coreFail_inputs : (coreFail e s).inputs = s.inputs := rfl

@[simp] theorem coreFail_hostRead : (coreFail e s).hostRead = s.hostRead := rfl

@[simp] theorem dualFail_dualPresent : (dualFail e s).dualPresent = s.dualPresent := rfl

@[simp] theorem dualFail_core : (dualFail e s).core = s.core := rfl

@[simp] theorem dualFail_dual_state0 : (dualFail e s).dual.state0 = s.dual.state0 := rfl

@[simp] theorem dualFail_dual_inc0 : (dualFail e s).dual.inc0 = s.dual.inc0 := rfl

@[simp] theorem dualFail_dual_state1 : (dualFail e s).dual.state1 = s.dual.state1 := rfl

@[simp] theorem dualFail_dual_inc1 : (dualFail e s).dual.inc1 = s.dual.inc1 := rfl

@[simp] theorem dualFail_dual_busy : (dualFail e s).dual.busy = s.dual.busy := rfl

@[simp] theorem dualFail_dual_seeded : (dualFail e s).dual.seeded = s.dual.seeded := rfl

@[simp] theorem dualFail_dual_err : (dualFail e s).dual.err = e := rfl

@[simp] theorem dualFail_dual_res : (dualFail e s).dual.res = s.dual.res := rfl

@[simp] theorem dualFail_dual_pbound : (dualFail e s).dual.pbound = s.dual.pbound := rfl

@[simp] theorem dualFail_dual_pthresh : (dualFail e s).dual.pthresh = s.dual.pthresh := rfl

@[simp] theorem dualFail_inputs : (dualFail e s).inputs = s.inputs := rfl

@[simp] theorem dualFail_hostRead : (dualFail e s).hostRead = s.hostRead := rfl

@[simp] theorem coreAnswer_dualPresent : (coreAnswer v s).dualPresent = s.dualPresent := rfl

@[simp] theorem coreAnswer_core_state : (coreAnswer v s).core.state = s.core.state := rfl

@[simp] theorem coreAnswer_core_inc : (coreAnswer v s).core.inc = s.core.inc := rfl

@[simp] theorem coreAnswer_core_busy : (coreAnswer v s).core.busy = s.core.busy := rfl

@[simp] theorem coreAnswer_core_seeded : (coreAnswer v s).core.seeded = s.core.seeded := rfl

@[simp] theorem coreAnswer_core_err : (coreAnswer v s).core.err = .ok := rfl

@[simp] theorem coreAnswer_core_res : (coreAnswer v s).core.res = v := rfl

@[simp] theorem coreAnswer_core_pbound : (coreAnswer v s).core.pbound = s.core.pbound := rfl

@[simp] theorem coreAnswer_core_pthresh : (coreAnswer v s).core.pthresh = s.core.pthresh := rfl

@[simp] theorem coreAnswer_dual : (coreAnswer v s).dual = s.dual := rfl

@[simp] theorem coreAnswer_inputs : (coreAnswer v s).inputs = s.inputs := rfl

@[simp] theorem coreAnswer_hostRead : (coreAnswer v s).hostRead = s.hostRead := rfl

@[simp] theorem dualAnswer_dualPresent : (dualAnswer v s).dualPresent = s.dualPresent := rfl

@[simp] theorem dualAnswer_core : (dualAnswer v s).core = s.core := rfl

@[simp] theorem dualAnswer_dual_state0 : (dualAnswer v s).dual.state0 = s.dual.state0 := rfl

@[simp] theorem dualAnswer_dual_inc0 : (dualAnswer v s).dual.inc0 = s.dual.inc0 := rfl

@[simp] theorem dualAnswer_dual_state1 : (dualAnswer v s).dual.state1 = s.dual.state1 := rfl

@[simp] theorem dualAnswer_dual_inc1 : (dualAnswer v s).dual.inc1 = s.dual.inc1 := rfl

@[simp] theorem dualAnswer_dual_busy : (dualAnswer v s).dual.busy = s.dual.busy := rfl

@[simp] theorem dualAnswer_dual_seeded : (dualAnswer v s).dual.seeded = s.dual.seeded := rfl

@[simp] theorem dualAnswer_dual_err : (dualAnswer v s).dual.err = .ok := rfl

@[simp] theorem dualAnswer_dual_res : (dualAnswer v s).dual.res = v := rfl

@[simp] theorem dualAnswer_dual_pbound : (dualAnswer v s).dual.pbound = s.dual.pbound := rfl

@[simp] theorem dualAnswer_dual_pthresh : (dualAnswer v s).dual.pthresh = s.dual.pthresh := rfl

@[simp] theorem dualAnswer_inputs : (dualAnswer v s).inputs = s.inputs := rfl

@[simp] theorem dualAnswer_hostRead : (dualAnswer v s).hostRead = s.hostRead := rfl

@[simp] theorem fail_core : fail .core e s = coreFail e s := rfl

@[simp] theorem fail_dual : fail .dual e s = dualFail e s := rfl

@[simp] theorem resetBlock_core_dualPresent : (resetBlock .core s).dualPresent = s.dualPresent := rfl

@[simp] theorem resetBlock_core_core : (resetBlock .core s).core = coreReset := rfl

@[simp] theorem resetBlock_core_dual : (resetBlock .core s).dual = s.dual := rfl

@[simp] theorem resetBlock_core_inputs : (resetBlock .core s).inputs = s.inputs := rfl

@[simp] theorem resetBlock_core_hostRead : (resetBlock .core s).hostRead = s.hostRead := rfl

@[simp] theorem resetBlock_dual_dualPresent : (resetBlock .dual s).dualPresent = s.dualPresent := rfl

@[simp] theorem resetBlock_dual_core : (resetBlock .dual s).core = s.core := rfl

@[simp] theorem resetBlock_dual_dual : (resetBlock .dual s).dual = dualReset := rfl

@[simp] theorem resetBlock_dual_inputs : (resetBlock .dual s).inputs = s.inputs := rfl

@[simp] theorem resetBlock_dual_hostRead : (resetBlock .dual s).hostRead = s.hostRead := rfl

@[simp] theorem hasPort_core : s.hasPort .core = true := rfl

@[simp] theorem hasPort_dual : s.hasPort .dual = s.dualPresent := rfl

@[simp] theorem busyOn_core : s.busyOn .core = s.core.busy := rfl

@[simp] theorem busyOn_dual : s.busyOn .dual = s.dual.busy := rfl

@[simp] theorem errOn_core : s.errOn .core = s.core.err := rfl

@[simp] theorem errOn_dual : s.errOn .dual = s.dual.err := rfl

@[simp] theorem seededOn_core : s.seededOn .core = s.core.seeded := rfl

@[simp] theorem seededOn_dual : s.seededOn .dual = s.dual.seeded := rfl

/-- A presented command stands at the head of the host's moves. -/
@[simp] theorem presentNext_inputs : (presentNext port cmd s).inputs = .command port cmd :: s.inputs := rfl

/-- A ready port is there. -/
@[simp] theorem readyPort_hasPort : (readyPort port s).hasPort port = true := by
  cases port <;> rfl

/-- A ready port is not busy. -/
@[simp] theorem readyPort_busyOn : (readyPort port s).busyOn port = false := by
  cases port <;> rfl

end Sys2Proof.Machine
end

