-- ==== Sys2Proof/Laws/Ops.lean ====
section
/-! SUPPORT. What each shared operation and each meaning can do, said once: an equation per case of its rule, and an
inversion that lists the cases. -/

namespace Sys2Proof.Machine

variable {s t : State}

/-- A move for a port that is there goes on. -/
theorem withPort_of_present {port : Port} {go : State → Result} (h : s.hasPort port = true) :
    withPort port s go = go s := by
  simp [withPort, h]

/-- A move for a port that is not there stops. -/
theorem withPort_of_absent {port : Port} {go : State → Result} (h : s.hasPort port = false) :
    withPort port s go = .fault .dualPortAbsent := by
  simp [withPort, h]

/-- A next state through a port: the port is there. -/
theorem withPort_next {port : Port} {go : State → Result} (h : withPort port s go = .next t) :
    s.hasPort port = true ∧ go s = .next t := by
  unfold withPort at h
  split at h
  · exact ⟨‹_›, h⟩
  · cases h

/-- A move for the wrapper's port, on a machine with the wrapper. -/
theorem withPort_dual_present {go : State → Result} (h : s.dualPresent = true) : withPort .dual s go = go s :=
  withPort_of_present (port := .dual) h

/-- A move for the wrapper's port, on a machine without the wrapper. -/
theorem withPort_dual_absent {go : State → Result} (h : s.dualPresent = false) :
    withPort .dual s go = .fault .dualPortAbsent :=
  withPort_of_absent (port := .dual) h

/-- NEXT on a seeded block (R84). -/
theorem execNext_seeded (h : s.core.seeded = true) :
    execNext s = .next (s.mapCore fun r =>
      { r with state := lcgStep r.state r.inc, res := zext64 (perm r.state), err := .ok }) := by
  simp [execNext, h, next32]

/-- NEXT on an unseeded block (R84, R152). -/
theorem execNext_unseeded (h : s.core.seeded = false) : execNext s = .next (coreFail .unseeded s) := by
  simp [execNext, h]

/-- BOUNDED on an unseeded block, whatever its bound (R155). -/
theorem execBounded_unseeded (bound : U32) (h : s.core.seeded = false) :
    execBounded bound s = .next (coreFail .unseeded s) := by
  simp [execBounded, h]

/-- BOUNDED 0 on a seeded block (R153). -/
theorem execBounded_zero (h : s.core.seeded = true) : execBounded 0#32 s = .next (coreFail .boundZero s) := by
  simp [execBounded, h]

/-- BOUNDED accepted (R104). -/
theorem execBounded_accepted {bound : U32} (h : s.core.seeded = true) (hb : bound ≠ 0#32) :
    execBounded bound s = .next (s.mapCore fun r =>
      { r with pbound := bound, pthresh := thresh bound, busy := true, err := .ok }) := by
  simp [execBounded, h, hb]

/-- The accepted draw (R105). -/
theorem drawCore_accepted {r : CoreRegs} (h : accept (perm r.state) r.pthresh = true) :
    drawCore r =
      { r with state := lcgStep r.state r.inc, res := zext64 (reduce (perm r.state) r.pbound), busy := false } := by
  simp [drawCore, h]

/-- A rejected draw (R105). -/
theorem drawCore_rejected {r : CoreRegs} (h : accept (perm r.state) r.pthresh = false) :
    drawCore r = { r with state := lcgStep r.state r.inc } := by
  simp [drawCore, h]

/-- DSEED (R133). -/
theorem execDseed_present (seed1 seed2 sel1 sel2 : U64) (h : s.dualPresent = true) :
    execDseed seed1 seed2 sel1 sel2 s = .next (s.mapDual fun r =>
      { r with
        state0 := (seedFn seed1 sel1).1, inc0 := (seedFn seed1 sel1).2,
        state1 := (seedFn seed2 (correct sel1 sel2)).1, inc1 := (seedFn seed2 (correct sel1 sel2)).2,
        seeded := true, err := .ok }) :=
  withPort_dual_present h

/-- DNEXT on a seeded wrapper (R134). -/
theorem execDnext_seeded (hp : s.dualPresent = true) (h : s.dual.seeded = true) :
    execDnext s = .next (s.mapDual fun r =>
      { r with
        state0 := lcgStep r.state0 r.inc0, state1 := lcgStep r.state1 r.inc1,
        res := dualDraw r.state0 r.state1, err := .ok }) := by
  rw [execDnext, withPort_dual_present hp]
  simp [h, next32, dualDraw]

/-- DNEXT on an unseeded wrapper (R134, R152). -/
theorem execDnext_unseeded (hp : s.dualPresent = true) (h : s.dual.seeded = false) :
    execDnext s = .next (dualFail .unseeded s) := by
  rw [execDnext, withPort_dual_present hp]
  simp [h]

/-- DBOUNDED on an unseeded wrapper, whatever its bound (R155). -/
theorem execDbounded_unseeded (bound : U64) (hp : s.dualPresent = true) (h : s.dual.seeded = false) :
    execDbounded bound s = .next (dualFail .unseeded s) := by
  rw [execDbounded, withPort_dual_present hp]
  simp [h]

/-- DBOUNDED 0 on a seeded wrapper (R153). -/
theorem execDbounded_zero (hp : s.dualPresent = true) (h : s.dual.seeded = true) :
    execDbounded 0#64 s = .next (dualFail .boundZero s) := by
  rw [execDbounded, withPort_dual_present hp]
  simp [h]

/-- DBOUNDED accepted (R136). -/
theorem execDbounded_accepted {bound : U64} (hp : s.dualPresent = true) (h : s.dual.seeded = true) (hb : bound ≠ 0#64) :
    execDbounded bound s = .next (s.mapDual fun r =>
      { r with pbound := bound, pthresh := thresh bound, busy := true, err := .ok }) := by
  rw [execDbounded, withPort_dual_present hp]
  simp [h, hb]

/-- The wrapper's accepted draw (R137). -/
theorem drawDual_accepted {r : DualRegs} (h : accept (dualDraw r.state0 r.state1) r.pthresh = true) :
    drawDual r =
      { r with
        state0 := lcgStep r.state0 r.inc0, state1 := lcgStep r.state1 r.inc1,
        res := reduce (dualDraw r.state0 r.state1) r.pbound, busy := false } := by
  simp [drawDual, h]

/-- The wrapper's rejected draw (R137). -/
theorem drawDual_rejected {r : DualRegs} (h : accept (dualDraw r.state0 r.state1) r.pthresh = false) :
    drawDual r = { r with state0 := lcgStep r.state0 r.inc0, state1 := lcgStep r.state1 r.inc1 } := by
  simp [drawDual, h]

/-- DFOOTPRINT (R138). -/
theorem execDfootprint_present (hp : s.dualPresent = true) :
    execDfootprint s = .next (dualAnswer Config.footprintDual s) :=
  withPort_dual_present hp

/-- What a CORE command can do to the CORE block's registers. -/
inductive CoreEffect (r : CoreRegs) : CoreRegs → Prop where
  | failed (e : ErrCode) (h : e ≠ .ok) : CoreEffect r { r with err := e }
  | answered (v : U64) : CoreEffect r { r with res := v, err := .ok }
  | seeded (seed sel : U64) : CoreEffect r
      { r with state := (seedFn seed sel).1, inc := (seedFn seed sel).2, seeded := true, err := .ok }
  | stepped (h : r.seeded = true) : CoreEffect r
      { r with state := lcgStep r.state r.inc, res := zext64 (perm r.state), err := .ok }
  | began (bound : U32) (h : r.seeded = true) (hb : bound ≠ 0#32) : CoreEffect r
      { r with pbound := bound, pthresh := thresh bound, busy := true, err := .ok }

/-- What a DUAL command can do to the wrapper's registers. -/
inductive DualEffect (r : DualRegs) : DualRegs → Prop where
  | failed (e : ErrCode) (h : e ≠ .ok) : DualEffect r { r with err := e }
  | answered (v : U64) : DualEffect r { r with res := v, err := .ok }
  | seeded (seed1 seed2 sel1 sel2 : U64) : DualEffect r
      { r with
        state0 := (seedFn seed1 sel1).1, inc0 := (seedFn seed1 sel1).2,
        state1 := (seedFn seed2 (correct sel1 sel2)).1, inc1 := (seedFn seed2 (correct sel1 sel2)).2,
        seeded := true, err := .ok }
  | stepped (h : r.seeded = true) : DualEffect r
      { r with
        state0 := lcgStep r.state0 r.inc0, state1 := lcgStep r.state1 r.inc1,
        res := dualDraw r.state0 r.state1, err := .ok }
  | began (bound : U64) (h : r.seeded = true) (hb : bound ≠ 0#64) : DualEffect r
      { r with pbound := bound, pthresh := thresh bound, busy := true, err := .ok }

/-- Every CORE command completes, with one of `CoreEffect`'s effects on the CORE block and none elsewhere. -/
theorem exec_core_cases {i : Instr} (s : State) (h : i.port = .core) :
    ∃ r, exec i s = .next { s with core := r } ∧ CoreEffect s.core r := by
  cases i with
  | seed seed sel => exact ⟨_, rfl, .seeded seed sel⟩
  | next =>
    cases hs : s.core.seeded with
    | true => exact ⟨_, execNext_seeded hs, .stepped hs⟩
    | false => exact ⟨_, execNext_unseeded hs, .failed .unseeded (by decide)⟩
  | bounded bound =>
    cases hs : s.core.seeded with
    | false => exact ⟨_, execBounded_unseeded bound hs, .failed .unseeded (by decide)⟩
    | true =>
      by_cases hb : bound = 0#32
      · subst hb
        exact ⟨_, execBounded_zero hs, .failed .boundZero (by decide)⟩
      · exact ⟨_, execBounded_accepted hs hb, .began bound hs hb⟩
  | footprint => exact ⟨_, rfl, .answered _⟩
  | rdstate => exact ⟨_, rfl, .answered _⟩
  | rdinc => exact ⟨_, rfl, .answered _⟩
  | dseed _ _ _ _ => cases h
  | dnext => cases h
  | dbounded _ => cases h
  | dfootprint => cases h

/-- Every DUAL command on a machine with the wrapper completes, with one of `DualEffect`'s effects on the wrapper and
none elsewhere. -/
theorem exec_dual_cases {i : Instr} (h : i.port = .dual) (hp : s.dualPresent = true) :
    ∃ r, exec i s = .next { s with dual := r } ∧ DualEffect s.dual r := by
  cases i with
  | seed _ _ => cases h
  | next => cases h
  | bounded _ => cases h
  | footprint => cases h
  | rdstate => cases h
  | rdinc => cases h
  | dseed seed1 seed2 sel1 sel2 => exact ⟨_, execDseed_present seed1 seed2 sel1 sel2 hp, .seeded seed1 seed2 sel1 sel2⟩
  | dnext =>
    cases hs : s.dual.seeded with
    | true => exact ⟨_, execDnext_seeded hp hs, .stepped hs⟩
    | false => exact ⟨_, execDnext_unseeded hp hs, .failed .unseeded (by decide)⟩
  | dbounded bound =>
    cases hs : s.dual.seeded with
    | false => exact ⟨_, execDbounded_unseeded bound hp hs, .failed .unseeded (by decide)⟩
    | true =>
      by_cases hb : bound = 0#64
      · subst hb
        exact ⟨_, execDbounded_zero hp hs, .failed .boundZero (by decide)⟩
      · exact ⟨_, execDbounded_accepted hp hs hb, .began bound hs hb⟩
  | dfootprint => exact ⟨_, execDfootprint_present hp, .answered _⟩

/-- Every DUAL command stops on a machine without the wrapper (log 4). -/
theorem exec_dual_absent {i : Instr} (h : i.port = .dual) (hp : s.dualPresent = false) :
    exec i s = .fault .dualPortAbsent := by
  cases i with
  | seed _ _ => cases h
  | next => cases h
  | bounded _ => cases h
  | footprint => cases h
  | rdstate => cases h
  | rdinc => cases h
  | dseed _ _ _ _ => rw [exec, execDseed, withPort_dual_absent hp]
  | dnext => rw [exec, execDnext, withPort_dual_absent hp]
  | dbounded _ => rw [exec, execDbounded, withPort_dual_absent hp]
  | dfootprint => rw [exec, execDfootprint, withPort_dual_absent hp]

end Sys2Proof.Machine
end

