-- ==== Sys2Proof/Laws/PerInstr.lean ====
section
/-! SUPPORT. Facts about every command as syntax, one lemma per constructor: the family `OpcodeUnit` says that the
opcode's `unit` field is that of the command's port and its `func` field is not 0 (30_encoding.md R51, R53, R54). -/

namespace Sys2Proof.Laws.OpcodeUnit

/-- `unit` is 0 for a CORE command and 1 for a DUAL command, and `func` 0 is no command (R51, R53, R54). -/
def Statement (i : Instr) : Prop :=
  (encode i).unit = (match i.port with | .core => 0#4 | .dual => 1#4) ∧ (encode i).func ≠ 0#4

/-- The statement is about the opcode's value alone. -/
theorem of_opcode {i : Instr} (op : U8) (unit : BitVec 4) (hl : i.listing.op = op)
    (hp : (match i.port with | .core => 0#4 | .dual => 1#4) = unit)
    (h : op.extractLsb' 4 4 = unit ∧ op.extractLsb' 0 4 ≠ 0#4) : Statement i := by
  rw [← hl, ← hp] at h
  exact h

theorem seed (s q : U64) : Statement (.seed s q) := of_opcode 0x01#8 0#4 rfl rfl (by decide)

theorem next : Statement .next := of_opcode 0x02#8 0#4 rfl rfl (by decide)

theorem bounded (b : U32) : Statement (.bounded b) := of_opcode 0x03#8 0#4 rfl rfl (by decide)

theorem footprint : Statement .footprint := of_opcode 0x04#8 0#4 rfl rfl (by decide)

theorem rdstate : Statement .rdstate := of_opcode 0x05#8 0#4 rfl rfl (by decide)

theorem rdinc : Statement .rdinc := of_opcode 0x06#8 0#4 rfl rfl (by decide)

theorem dseed (s1 s2 q1 q2 : U64) : Statement (.dseed s1 s2 q1 q2) := of_opcode 0x11#8 1#4 rfl rfl (by decide)

theorem dnext : Statement .dnext := of_opcode 0x12#8 1#4 rfl rfl (by decide)

theorem dbounded (b : U64) : Statement (.dbounded b) := of_opcode 0x13#8 1#4 rfl rfl (by decide)

theorem dfootprint : Statement .dfootprint := of_opcode 0x14#8 1#4 rfl rfl (by decide)

end Sys2Proof.Laws.OpcodeUnit
end

