-- ==== Sys2Proof/Laws/Step.lean ====
section
/-! SUPPORT. What one step can do, by the host's next move. -/

namespace Sys2Proof.Machine

variable {s t : State} {rest : List HostInput}

/-- A draw of the CORE block while it is busy. -/
theorem ownTransition_core_busy (h : s.core.busy = true) : ownTransition .core s = s.mapCore drawCore := by
  simp [ownTransition, h]

/-- The CORE block holds its state while it waits. -/
theorem ownTransition_core_idle (h : s.core.busy = false) : ownTransition .core s = s := by
  simp [ownTransition, h]

/-- A draw of the wrapper while it is busy. -/
theorem ownTransition_dual_busy (h : s.dual.busy = true) : ownTransition .dual s = s.mapDual drawDual := by
  simp [ownTransition, h]

/-- The wrapper holds its state while it waits. -/
theorem ownTransition_dual_idle (h : s.dual.busy = false) : ownTransition .dual s = s := by
  simp [ownTransition, h]

/-- No move of the host is left. -/
theorem step_nil (h : s.inputs = []) : step s = .next (freeRun s) := by
  simp [step, transition, h]

/-- A command waits while its port is busy, and the block makes its own transition. -/
theorem step_command_held {port : Port} {cmd : Command} (h : s.inputs = .command port cmd :: rest)
    (hp : s.hasPort port = true) (hb : s.busyOn port = true) : step s = .next (ownTransition port s) := by
  simp [step, transition, h, withPort_of_present hp, hb]

/-- A command on a port that is not busy is accepted. -/
theorem step_command_taken {port : Port} {cmd : Command} (h : s.inputs = .command port cmd :: rest)
    (hp : s.hasPort port = true) (hb : s.busyOn port = false) :
    step s = acceptCommand port cmd { s with inputs := rest } := by
  simp [step, transition, h, withPort_of_present hp, hb]

/-- A reset. -/
theorem step_reset {port : Port} {presented : Option Command} (h : s.inputs = .reset port presented :: rest)
    (hp : s.hasPort port = true) : step s = .next (resetBlock port { s with inputs := rest }) := by
  simp [step, transition, h, withPort_of_present hp]

/-- A read. -/
theorem step_read {reg : HostReg} (h : s.inputs = .read reg :: rest) (hp : s.hasPort reg.port = true) :
    step s = .next { s with inputs := rest, hostRead := readReg s reg } := by
  simp [step, transition, h, withPort_of_present hp]

/-- The host leaves the block to its own transition. -/
theorem step_pass {port : Port} (h : s.inputs = .pass port :: rest) (hp : s.hasPort port = true) :
    step s = .next (ownTransition port { s with inputs := rest }) := by
  simp [step, transition, h, withPort_of_present hp]

/-- A move for a port that is not there stops the machine (log 4). -/
theorem step_absent {move : HostInput} (h : s.inputs = move :: rest) (hp : s.hasPort move.port = false) :
    step s = .fault .dualPortAbsent := by
  cases move <;> simp [step, transition, h, withPort_of_absent (by simpa [HostInput.port] using hp)]

/-- A presented command that decodes is performed. -/
theorem acceptCommand_ok {port : Port} {cmd : Command} {i : Instr} (h : decode port cmd = .ok i) :
    acceptCommand port cmd s = exec i s := by
  simp [acceptCommand, h]

/-- A presented command with a reserved opcode is reported. -/
theorem acceptCommand_error {port : Port} {cmd : Command} {e : DecodeError} (h : decode port cmd = .error e) :
    acceptCommand port cmd s = .next (fail port .illegalOp s) := by
  simp [acceptCommand, h]

/-- A port decodes commands of its own unit only (R55). -/
theorem decode_port {port : Port} {cmd : Command} {i : Instr} (h : decode port cmd = .ok i) : i.port = port := by
  cases port <;> simp only [decode, decodeCore, decodeDual] at h <;> split_ifs at h <;> cases h <;> rfl

/-- Everything a step that answers a next state can have done. -/
inductive StepCase (s : State) : State → Prop where
  | freeRun (h : s.inputs = []) : StepCase s (freeRun s)
  | held {port : Port} {cmd : Command} {rest : List HostInput} (h : s.inputs = .command port cmd :: rest)
      (hp : s.hasPort port = true) (hb : s.busyOn port = true) : StepCase s (ownTransition port s)
  | taken {port : Port} {cmd : Command} {rest : List HostInput} {i : Instr} {t : State}
      (h : s.inputs = .command port cmd :: rest) (hp : s.hasPort port = true) (hb : s.busyOn port = false)
      (hd : decode port cmd = .ok i) (he : exec i { s with inputs := rest } = .next t) : StepCase s t
  | illegal {port : Port} {cmd : Command} {rest : List HostInput} {e : DecodeError}
      (h : s.inputs = .command port cmd :: rest) (hp : s.hasPort port = true) (hb : s.busyOn port = false)
      (hd : decode port cmd = .error e) : StepCase s (fail port .illegalOp { s with inputs := rest })
  | reset {port : Port} {presented : Option Command} {rest : List HostInput}
      (h : s.inputs = .reset port presented :: rest) (hp : s.hasPort port = true) :
      StepCase s (resetBlock port { s with inputs := rest })
  | read {reg : HostReg} {rest : List HostInput} (h : s.inputs = .read reg :: rest) (hp : s.hasPort reg.port = true) :
      StepCase s { s with inputs := rest, hostRead := readReg s reg }
  | pass {port : Port} {rest : List HostInput} (h : s.inputs = .pass port :: rest) (hp : s.hasPort port = true) :
      StepCase s (ownTransition port { s with inputs := rest })

/-- The inversion of `step`. -/
theorem step_cases (h : step s = .next t) : StepCase s t := by
  match hin : s.inputs with
  | [] =>
    rw [step_nil hin] at h
    cases h
    exact .freeRun hin
  | move :: rest =>
    cases hp : s.hasPort move.port with
    | false => rw [step_absent hin hp] at h; cases h
    | true =>
      cases move with
      | command port cmd =>
        cases hb : s.busyOn port with
        | true =>
          rw [step_command_held hin hp hb] at h
          cases h
          exact .held hin hp hb
        | false =>
          rw [step_command_taken hin hp hb] at h
          cases hd : decode port cmd with
          | ok i =>
            rw [acceptCommand_ok hd] at h
            exact .taken hin hp hb hd h
          | error e =>
            rw [acceptCommand_error hd] at h
            cases h
            exact .illegal hin hp hb hd
      | reset port presented =>
        rw [step_reset hin hp] at h
        cases h
        exact .reset hin hp
      | read reg =>
        rw [step_read hin hp] at h
        cases h
        exact .read hin hp
      | pass port =>
        rw [step_pass hin hp] at h
        cases h
        exact .pass hin hp

/-- While a BOUNDED is in progress a step that is no reset of the CORE block leaves that block as it is or makes one draw
(R105, R176). -/
theorem step_core_while_busy (h : step s = .next t) (hb : s.core.busy = true)
    (hr : ∀ presented rest, s.inputs ≠ .reset .core presented :: rest) :
    t.core = s.core ∨ t.core = drawCore s.core := by
  cases step_cases h with
  | freeRun hin =>
    rw [freeRun, if_pos hb, ownTransition_core_busy hb]
    exact .inr rfl
  | @held port _ _ hin hp hbp =>
    cases port with
    | core => rw [ownTransition_core_busy hb]; exact .inr rfl
    | dual => rw [ownTransition_dual_busy hbp]; exact .inl rfl
  | @taken port _ rest _ _ hin hp hbp hd he =>
    cases port with
    | core => exact absurd hbp (by simp [hb])
    | dual =>
      obtain ⟨r, hr, -⟩ := exec_dual_cases (s := { s with inputs := rest }) (decode_port hd) hp
      rw [hr] at he
      cases he
      exact .inl rfl
  | @illegal port _ _ _ hin hp hbp hd =>
    cases port with
    | core => exact absurd hbp (by simp [hb])
    | dual => exact .inl rfl
  | @reset port _ _ hin hp =>
    cases port with
    | core => exact absurd hin (hr _ _)
    | dual => exact .inl rfl
  | read hin hp => exact .inl rfl
  | @pass port rest hin hp =>
    cases port with
    | core => rw [ownTransition_core_busy (s := { s with inputs := rest }) hb]; exact .inr rfl
    | dual => unfold ownTransition; dsimp only; split <;> exact .inl rfl

/-- While a DBOUNDED is in progress a step that is no reset of the wrapper leaves the wrapper as it is or makes one draw
(R137, R176). -/
theorem step_dual_while_busy (h : step s = .next t) (hb : s.dual.busy = true)
    (hr : ∀ presented rest, s.inputs ≠ .reset .dual presented :: rest) :
    t.dual = s.dual ∨ t.dual = drawDual s.dual := by
  cases step_cases h with
  | freeRun hin =>
    unfold freeRun
    split
    · rw [ownTransition_core_busy ‹_›]; exact .inl rfl
    · split
      · rw [ownTransition_dual_busy hb]; exact .inr rfl
      · exact .inl rfl
  | @held port _ _ hin hp hbp =>
    cases port with
    | core => rw [ownTransition_core_busy hbp]; exact .inl rfl
    | dual => rw [ownTransition_dual_busy hb]; exact .inr rfl
  | @taken port _ rest _ _ hin hp hbp hd he =>
    cases port with
    | core =>
      obtain ⟨r, hr, -⟩ := exec_core_cases { s with inputs := rest } (decode_port hd)
      rw [hr] at he
      cases he
      exact .inl rfl
    | dual => exact absurd hbp (by simp [hb])
  | @illegal port _ _ _ hin hp hbp hd =>
    cases port with
    | core => exact .inl rfl
    | dual => exact absurd hbp (by simp [hb])
  | @reset port _ _ hin hp =>
    cases port with
    | core => exact .inl rfl
    | dual => exact absurd hin (hr _ _)
  | read hin hp => exact .inl rfl
  | @pass port rest hin hp =>
    cases port with
    | core => unfold ownTransition; dsimp only; split <;> exact .inl rfl
    | dual => rw [ownTransition_dual_busy (s := { s with inputs := rest }) hb]; exact .inr rfl

/-- No step is no change. -/
@[simp] theorem runSteps_zero (s : State) : runSteps 0 s = .next s := rfl

/-- One step more, taken first. -/
theorem runSteps_succ_of_next {k : Nat} (h : step s = .next t) : runSteps (k + 1) s = runSteps k t := by
  rw [runSteps, h]

/-- Steps after steps. -/
theorem runSteps_add {a b : Nat} (h : runSteps a s = .next t) : runSteps (a + b) s = runSteps b t := by
  induction a generalizing s with
  | zero => cases h; rw [Nat.zero_add]
  | succ a ih =>
    rw [runSteps] at h
    rw [Nat.succ_add, runSteps]
    cases hs : step s with
    | next u => rw [hs] at h; exact ih h
    | fault r => rw [hs] at h; cases h
    | refused r => rw [hs] at h; cases h

end Sys2Proof.Machine
end

