-- ==== Sys2Proof/Tests/Slice0.lean ====
section
/-! SUPPORT. Small tests of single functions and single steps, their expected values taken from the tables of
95_test_vectors.md and the rules' own examples, and for each statement with hypotheses a witness that meets them. -/

namespace Sys2Proof.Tests

open Sys2Proof.Machine

/-- The outcome is a next state with this property. -/
def onNext (o : Result) (p : State → Bool) : Bool :=
  match o with
  | .next s => p s
  | .fault _ => false
  | .refused _ => false

/-- A machine with these CORE registers and these moves of the host. -/
def coreState (r : CoreRegs) (inputs : List HostInput) : State := { State.reset with core := r, inputs := inputs }

/-- A machine with these registers of the wrapper and these moves of the host. -/
def dualState (r : DualRegs) (inputs : List HostInput) : State := { State.reset with dual := r, inputs := inputs }

/-- The CORE block after `SEED 42, 54` (40_seed.md R77). -/
def seeded : CoreRegs := { coreReset with state := 0x185706B82C2E03F8#64, inc := 0x6D#64, seeded := true }

/-- The CORE block in the middle of `BOUNDED 0x80000001`, before its rejected draw (95 L2.6). -/
def drawing : CoreRegs :=
  { seeded with
    state := 0x2B47FED88766BB05#64, busy := true, res := 0x215C02B6#64, pbound := 0x80000001#32, pthresh := 0x7FFFFFFF#32 }

/-- The wrapper after `DSEED 42, 54, 54, 54` (95 L2.9). -/
def dualSeeded : DualRegs :=
  { dualReset with
    state0 := 0x185706B82C2E03F8#64, inc0 := 0x6D#64, state1 := 0x06648A448BE1ACE8#64, inc1 := 0xFFFFFFFFFFFFFF93#64,
    seeded := true }

/-- The wrapper in the middle of `DBOUNDED 6`. -/
def dualDrawing : DualRegs := { dualSeeded with busy := true, pbound := 6#64, pthresh := 4#64 }

/-! Syntax checks. -/

/-- 00_scope.md R6: no DUAL command without the wrapper. -/
theorem test_illformed_dual_without_wrapper : Instr.dnext.wellFormed false = false := by decide

/-- 30_encoding.md R57: an operand of more than 64 bits, in each place. -/
theorem test_illformed_wide_operands :
    (AsmLine.seed (2 ^ 64) 0).wellFormed = false ∧ (AsmLine.seed 0 (2 ^ 64)).wellFormed = false ∧
    (AsmLine.dseed (2 ^ 64) 0 0 0).wellFormed = false ∧ (AsmLine.dseed 0 (2 ^ 64) 0 0).wellFormed = false ∧
    (AsmLine.dseed 0 0 (2 ^ 64) 0).wellFormed = false ∧ (AsmLine.dseed 0 0 0 (2 ^ 64)).wellFormed = false ∧
    (AsmLine.dbounded (2 ^ 64)).wellFormed = false := by decide

/-- 30_encoding.md R57: 32 bits for BOUNDED. -/
theorem test_illformed_bound :
    (AsmLine.bounded (2 ^ 32)).wellFormed = false ∧ (AsmLine.bounded (2 ^ 32 - 1)).wellFormed = true := by decide

/-! Decoding: words written out from the tables of R53 and R54, `unit` in bits 7:4 and `func` in bits 3:0. -/

theorem test_decode_seed : decode .core ⟨0b00000001#8, 42#64, 54#64, 0#64, 0#64⟩ = .ok (.seed 42#64 54#64) := by decide

theorem test_decode_next : decodeTableWord 8 0b00000010 = some .next := by decide

theorem test_decode_bounded : decode .core ⟨0b00000011#8, 6#64, 0#64, 0#64, 0#64⟩ = .ok (.bounded 6#32) := by decide

theorem test_decode_footprint : decodeTableWord 8 0b00000100 = some .footprint := by decide

theorem test_decode_rdstate : decodeTableWord 8 0b00000101 = some .rdstate := by decide

theorem test_decode_rdinc : decodeTableWord 8 0b00000110 = some .rdinc := by decide

theorem test_decode_dseed :
    decode .dual ⟨0b00010001#8, 1#64, 2#64, 3#64, 4#64⟩ = .ok (.dseed 1#64 2#64 3#64 4#64) := by decide

theorem test_decode_dnext : decodeTableWord 8 0b00010010 = some .dnext := by decide

theorem test_decode_dbounded : decode .dual ⟨0b00010011#8, 6#64, 0#64, 0#64, 0#64⟩ = .ok (.dbounded 6#64) := by decide

theorem test_decode_dfootprint : decodeTableWord 8 0b00010100 = some .dfootprint := by decide

/-- R53: 0x00 and 0x07 are reserved on the CORE port. -/
theorem test_decode_reserved : decodeTableWord 8 0x00 = none ∧ decodeTableWord 8 0x07 = none := by decide

/-- A whole transaction as one number: `SEED 42, 54` (R58; log 9). -/
theorem test_decode_whole_word : decodeTableWord 264 (0x01 + 2 ^ 8 * 42 + 2 ^ 72 * 54) = some (.seed 42#64 54#64) := by
  decide

/-! The datapath (95 L2.1, L2.2, L2.3, L2.5). -/

/-- 95 L2.1. -/
theorem test_step_table :
    lcgStep 0#64 0#64 = 0#64 ∧ lcgStep 1#64 0#64 = 0x5851F42D4C957F2D#64 ∧
    lcgStep 0xFFFFFFFFFFFFFFFF#64 1#64 = 0xA7AE0BD2B36A80D4#64 ∧
    lcgStep 0xFFFFFFFFFFFFFFFF#64 0xFFFFFFFFFFFFFFFF#64 = 0xA7AE0BD2B36A80D2#64 ∧
    lcgStep 0x97#64 0x6D#64 = 0x185706B82C2E03F8#64 := by decide

/-- 00_scope.md R7: the multiplier in decimal. -/
theorem test_multiplier : Config.multiplier = 6364136223846793005#64 := by decide

/-- 95 L2.2. -/
theorem test_perm_table :
    perm 0#64 = 0#32 ∧ perm 1#64 = 0#32 ∧ perm 0x8000000#64 = 1#32 ∧ perm 0xFFFFFFFFFFFFFFFF#64 = 0xFFF00001#32 ∧
    perm 0x8000000000000000#64 = 4#32 ∧ perm 0x0800000000000000#64 = 0x2000#32 ∧
    perm 0x07FFFFFFFFFFFFFF#64 = 0xFFFFC000#32 ∧ perm 0xF800000000000000#64 = 0x000F8000#32 ∧
    perm 0x0123456789ABCDEF#64 = 0x2468A5EB#32 ∧ perm 0x07FFFE0000000000#64 = 0xFFFFFFFF#32 ∧
    perm 0x185706B82C2E03F8#64 = 0xA15C02B7#32 := by decide

/-- 95 L2.3. -/
theorem test_seed_table :
    seedFn 0#64 0#64 = (0x5851F42D4C957F2E#64, 1#64) ∧
    seedFn 0xFFFFFFFFFFFFFFFF#64 0xFFFFFFFFFFFFFFFF#64 = (0x4F5C17A566D501A5#64, 0xFFFFFFFFFFFFFFFF#64) ∧
    seedFn 0x8000000000000000#64 0x8000000000000000#64 = (0xD851F42D4C957F2E#64, 1#64) ∧
    seedFn 0x3F681078CD61D75A#64 0#64 = (0#64, 1#64) ∧
    seedFn 0x2B16C678CD61D75A#64 0#64 = (0x07FFFE0000000000#64, 1#64) := by decide

/-- 95 L2.5, 32 bits; 42_bounded.md R110. -/
theorem test_thresh32_table :
    thresh 1#32 = 0#32 ∧ thresh 2#32 = 0#32 ∧ thresh 3#32 = 1#32 ∧ thresh 6#32 = 4#32 ∧ thresh 7#32 = 4#32 ∧
    thresh 10#32 = 6#32 ∧ thresh 0x10000#32 = 0#32 ∧ thresh 0x7FFFFFFF#32 = 2#32 ∧ thresh 0x80000000#32 = 0#32 ∧
    thresh 0x80000001#32 = 0x7FFFFFFF#32 ∧ thresh 0xFFFFFFFE#32 = 2#32 ∧ thresh 0xFFFFFFFF#32 = 1#32 := by decide

/-- 95 L2.5, 64 bits. -/
theorem test_thresh64_table :
    thresh 1#64 = 0#64 ∧ thresh 10#64 = 6#64 ∧ thresh 0x100000000#64 = 0#64 ∧
    thresh 0x8000000000000001#64 = 0x7FFFFFFFFFFFFFFF#64 ∧ thresh 0xFFFFFFFFFFFFFFFE#64 = 2#64 ∧
    thresh 0xFFFFFFFFFFFFFFFF#64 = 1#64 := by decide

/-- 95 L1.4: the selector used for gen1. -/
theorem test_correct_table :
    correct 54#64 54#64 = 0xFFFFFFFFFFFFFFC9#64 ∧ correct 54#64 0x8000000000000036#64 = 0x7FFFFFFFFFFFFFC9#64 ∧
    correct 0#64 0x4000000000000000#64 = 0x4000000000000000#64 ∧ correct 54#64 55#64 = 55#64 := by decide

/-- 95 L2.6: the atomic form finds the third draw. -/
theorem test_bounded_atomic :
    boundedFn 5 0#64 1#64 0xFFFFFFFF#32 = some (0xE4C14788#32, 0xC0B18CCF4E252D17#64) := by decide

/-- 95 P4: the atomic form of DBOUNDED finds the second draw. -/
theorem test_dbounded_atomic :
    dboundedFn 5 0x2B47FED88766BB05#64 0x6D#64 0xF8913DE80E7A7C5B#64 0xFFFFFFFFFFFFFF93#64 0x8000000000000001#64 =
      some (0x3A1D3330358573A1#64, 0xF7079824C154BF23#64, 0x45EE7D3229B2873D#64) := by decide

/-- 95's introduction: the values of `STATUS` that occur. -/
theorem test_status_values :
    packStatus false true .ok = 0x2#32 ∧ packStatus true true .ok = 0x3#32 ∧ packStatus false false .illegalOp = 0x4#32 ∧
    packStatus false true .illegalOp = 0x6#32 ∧ packStatus false false .unseeded = 0x8#32 ∧
    packStatus false true .boundZero = 0xE#32 := by decide

/-! One command each (95 P1 to P5). -/

/-- 95 L1.1. -/
theorem test_exec_seed : onNext (exec (.seed 42#64 54#64) State.reset) (fun t => t.core == seeded) = true := by decide

/-- 95 L2.3: a second SEED replaces the first, and keeps `RES`. -/
theorem test_exec_seed_again :
    onNext (exec (.seed 0#64 0#64) (coreState { seeded with res := 7#64, err := .boundZero } []))
      (fun t => t.core == { seeded with state := 0x5851F42D4C957F2E#64, inc := 1#64, res := 7#64 }) = true := by decide

/-- 95 P1. -/
theorem test_exec_next :
    onNext (exec .next (coreState seeded []))
      (fun t => t.core == { seeded with state := 0x2B47FED88766BB05#64, res := 0xA15C02B7#64 }) = true := by decide

/-- 95 P3. -/
theorem test_exec_next_unseeded :
    onNext (exec .next State.reset) (fun t => t.core == { coreReset with err := .unseeded }) = true := by decide

/-- 95 L2.6: acceptance makes no draw. -/
theorem test_exec_bounded :
    onNext (exec (.bounded 0x80000001#32) (coreState seeded []))
      (fun t => t.core == { seeded with busy := true, pbound := 0x80000001#32, pthresh := 0x7FFFFFFF#32 }) = true := by
  decide

/-- 95 L2.7: `UNSEEDED` before `BOUND_ZERO`. -/
theorem test_exec_bounded_errors :
    onNext (exec (.bounded 0#32) State.reset) (fun t => statusWord t.core == 0x8#32) = true ∧
    onNext (exec (.bounded 0#32) (coreState seeded [])) (fun t => statusWord t.core == 0xE#32) = true := by decide

/-- 95 L2.8. -/
theorem test_exec_footprint : onNext (exec .footprint State.reset) (fun t => t.core.res == 0x10#64) = true := by decide

/-- 95 L2.8. -/
theorem test_exec_rdstate :
    onNext (exec .rdstate (coreState seeded [])) (fun t => t.core.res == 0x185706B82C2E03F8#64) = true := by decide

/-- 95 L2.8. -/
theorem test_exec_rdinc : onNext (exec .rdinc (coreState seeded [])) (fun t => t.core.res == 0x6D#64) = true := by decide

/-- 95 L2.9. -/
theorem test_exec_dseed :
    onNext (exec (.dseed 42#64 54#64 54#64 54#64) State.reset) (fun t => t.dual == dualSeeded) = true := by decide

/-- 95 L2.9. -/
theorem test_exec_dnext :
    onNext (exec .dnext (dualState dualSeeded [])) (fun t => t.dual ==
      { dualSeeded with
        state0 := 0x2B47FED88766BB05#64, state1 := 0xF8913DE80E7A7C5B#64, res := 0xA15C02B7CC917BB5#64 }) = true := by
  decide

/-- 95 P4. -/
theorem test_exec_dnext_unseeded :
    onNext (exec .dnext State.reset) (fun t => dstatusWord t.dual == 0x8#32) = true := by decide

/-- 44_dual_stream.md R136. -/
theorem test_exec_dbounded :
    onNext (exec (.dbounded 6#64) (dualState dualSeeded [])) (fun t => t.dual == dualDrawing) = true := by decide

/-- 95 P4. -/
theorem test_exec_dbounded_zero :
    onNext (exec (.dbounded 0#64) (dualState dualSeeded [])) (fun t => dstatusWord t.dual == 0xE#32) = true := by decide

/-- 95 P4. -/
theorem test_exec_dfootprint : onNext (exec .dfootprint State.reset) (fun t => t.dual.res == 0x20#64) = true := by decide

/-! One transition each. -/

/-- 95 L2.6: draw 1 is rejected, a waiting command stays, `RES` keeps its value. -/
theorem test_draw_rejected :
    onNext (step (coreState drawing [.command .core ⟨0x02#8, 0#64, 0#64, 0#64, 0#64⟩])) (fun t =>
      t.core == { drawing with state := 0x8B33296D19BF5B4E#64 } && t.inputs.length == 1) = true := by decide

/-- 95 L2.6: draw 2 is accepted. -/
theorem test_draw_accepted :
    onNext (step (coreState { drawing with state := 0x8B33296D19BF5B4E#64 } [])) (fun t =>
      t.core == { drawing with state := 0xF7079824C154BF23#64, res := 0x3A1D332F#64, busy := false }) = true := by decide

/-- 95 L2.6: a draw equal to the threshold is accepted. -/
theorem test_draw_at_threshold :
    onNext (step (coreState
        { seeded with state := 0x8000000#64, inc := 1#64, busy := true, pbound := 3#32, pthresh := 1#32 } [])) (fun t =>
      t.core.res == 1#64 && t.core.state == 0x6A64ABF968000001#64 && !t.core.busy) = true := by decide

/-- 95 L2.9: the wrapper's accepted draw. -/
theorem test_dual_draw :
    onNext (step (dualState dualDrawing [.pass .dual])) (fun t => t.dual.res == 5#64 && !t.dual.busy) = true := by decide

/-- 95 P5: reset during a bounded draw. -/
theorem test_reset_during_draw :
    onNext (step (coreState drawing [.reset .core none])) (fun t => t.core == coreReset) = true := by decide

/-- 95 P3: opcode 0x11 on the CORE port. -/
theorem test_reserved_opcode :
    onNext (step (coreState seeded [.command .core ⟨0x11#8, 0#64, 0#64, 0#64, 0#64⟩])) (fun t =>
      t.core == { seeded with err := .illegalOp } && t.inputs.isEmpty) = true := by decide

/-- 20_memory.md R46: `STATUS` read during a BOUNDED. -/
theorem test_read_status :
    onNext (step (coreState drawing [.read .status])) (fun t => t.hostRead == 3#64 && t.core == drawing) = true := by
  decide

/-- A placed word is the first command after reset, on either port. -/
theorem test_placed_words :
    onNext (step (State.reset.withFetchWord 8 0x04)) (fun t => t.core.res == 16#64) = true ∧
    onNext (step (State.reset.withFetchWord 8 0x14)) (fun t => t.dual.res == 32#64) = true := by decide

/-! The listing's text (30_encoding.md R57, R58). -/

/-- R58's example, from the text of R57. -/
theorem test_parse_seed : parseLine "SEED 42, 54".toList = .ok (.seed 42 54) := by decide

/-- 95 P3, with a comment. -/
theorem test_parse_hex_and_comment :
    parseLine "SEED 0x3F681078CD61D75A, 0    ; x".toList = .ok (.seed 0x3F681078CD61D75A 0) := by decide

/-- Lines that are errors. -/
theorem test_parse_errors :
    parseLine "BOUNDED".toList = .error .operandCount ∧ parseLine "next".toList = .error .unknownMnemonic ∧
    parseLine "BOUNDED -1".toList = .error .badLiteral := by decide

/-- R58's example. -/
theorem test_listing_text :
    listingText (Instr.seed 42#64 54#64).listing =
      "op=0x01 a=0x000000000000002A b=0x0000000000000036 c=- d=-".toList := by decide

/-- R58's example. -/
theorem test_listing_text_bounded :
    listingText (Instr.bounded 6#32).listing = "op=0x03 a=0x0000000000000006 b=- c=- d=-".toList := by decide

/-! Witnesses: states and operands that meet all the hypotheses of a statement together, one for each of its clauses. -/

/-- NEXT presented on the CORE port. -/
def nextCmd : Command := ⟨0x02#8, 0#64, 0#64, 0#64, 0#64⟩

/-- DNEXT presented on the DUAL port. -/
def dnextCmd : Command := ⟨0x12#8, 0#64, 0#64, 0#64, 0#64⟩

/-- A machine with a BOUNDED and a DBOUNDED in progress and a command waiting on each port. -/
def bothBusy (inputs : List HostInput) : State :=
  { State.reset with core := drawing, dual := dualDrawing, inputs := inputs }

/-- The CORE block's invariant during a BOUNDED. -/
theorem witness_core_inv_drawing : CoreInv drawing := ⟨by decide, by decide, fun _ => by decide⟩

/-- The wrapper's invariant during a DBOUNDED. -/
theorem witness_dual_inv_drawing : DualInv dualDrawing := ⟨by decide, by decide, fun _ => by decide⟩

/-- The invariant of R29 and R33 holds with both blocks busy (StepKeepsInvariant, DrawCount, BusyHoldEnds,
BoundedResultInRange). -/
theorem witness_inv_busy (inputs : List HostInput) : (bothBusy inputs).Inv :=
  ⟨witness_core_inv_drawing, witness_dual_inv_drawing, by intro h; cases h⟩

/-- The invariant with an unseeded CORE block beside a busy wrapper (QueriesComplete). -/
theorem witness_inv_unseeded : (dualState dualDrawing []).Inv :=
  ⟨⟨by decide, by decide, by decide⟩, witness_dual_inv_drawing, by intro h; cases h⟩

/-- The invariant with a seeded CORE block that waits (QueriesComplete). -/
theorem witness_inv_seeded : (coreState seeded []).Inv :=
  ⟨⟨by decide, by decide, by decide⟩, ⟨by decide, by decide, by decide⟩, by intro h; cases h⟩

/-- StepKeepsInvariant, WritersOfGeneratorState: each kind of move completes from such a state. -/
theorem witness_steps_complete :
    (onNext (step (bothBusy [])) fun t => t.core.busy && t.core.state != drawing.state) = true ∧
    (onNext (step (bothBusy [.command .dual dnextCmd])) fun t => !t.dual.busy) = true ∧
    (onNext (step (bothBusy [.pass .core])) fun t => t.inputs.isEmpty) = true ∧
    (onNext (step (bothBusy [.reset .dual (some dnextCmd)])) fun t => t.dual == dualReset) = true ∧
    (onNext (step (coreState seeded [.command .core ⟨0x01#8, 0#64, 9#64, 0#64, 0#64⟩])) fun t =>
      t.core.inc != seeded.inc) = true ∧
    (onNext (step (coreState seeded [.command .core nextCmd])) fun t => t.core.state != seeded.state) = true := by
  decide

/-- ReachableStatesMeetInvariant: runs from reset complete, with and without the wrapper. -/
theorem witness_run_from_reset :
    (onNext (runSteps 2 { State.reset with
      dualPresent := false, inputs := [.command .core ⟨0x01#8, 42#64, 54#64, 0#64, 0#64⟩, .command .core nextCmd] })
      fun t => t.core.res == 0xA15C02B7#64) = true := by decide

/-- DecodeInvertsEncode, OperandsComeFromTheirFields: transactions with values in the ignored fields. -/
theorem witness_listing_matches :
    Instr.next.listing.matches ⟨0x02#8, 1#64, 2#64, 3#64, 4#64⟩ = true ∧
    (Instr.bounded 0xFFFFFFFF#32).listing.matches ⟨0x03#8, 0xFFFFFFFF#64, 2#64, 3#64, 4#64⟩ = true ∧
    decode .core ⟨0x03#8, 0xFFFFFFFF00000000#64, 2#64, 3#64, 4#64⟩ = .ok (.bounded 0#32) ∧
    decode .dual ⟨0x13#8, 0xFFFFFFFF00000000#64, 2#64, 3#64, 4#64⟩ = .ok (.dbounded 0xFFFFFFFF00000000#64) := by decide

/-- DecodingIsTotal, ReservedOpcodeReports: the opcodes at the ends of the ranges. -/
theorem witness_opcode_ranges :
    decodeCore ⟨0x00#8, 0#64, 0#64, 0#64, 0#64⟩ = .error (.reserved .core 0x00#8) ∧
    decodeCore ⟨0x06#8, 0#64, 0#64, 0#64, 0#64⟩ = .ok .rdinc ∧
    decodeCore ⟨0x07#8, 0#64, 0#64, 0#64, 0#64⟩ = .error (.reserved .core 0x07#8) ∧
    decodeCore ⟨0xFF#8, 0#64, 0#64, 0#64, 0#64⟩ = .error (.reserved .core 0xFF#8) ∧
    decodeDual ⟨0x10#8, 0#64, 0#64, 0#64, 0#64⟩ = .error (.reserved .dual 0x10#8) ∧
    decodeDual ⟨0x14#8, 0#64, 0#64, 0#64, 0#64⟩ = .ok .dfootprint ∧
    decodeDual ⟨0x15#8, 0#64, 0#64, 0#64, 0#64⟩ = .error (.reserved .dual 0x15#8) := by decide

/-- ReservedOpcodeReports, StepRunsDecodedCommand: a port that is there and not busy, with each kind of command. -/
theorem witness_ready_port :
    (onNext (step (dualState dualSeeded [.command .dual ⟨0x02#8, 0#64, 0#64, 0#64, 0#64⟩])) fun t =>
      dstatusWord t.dual == 0x6#32) = true ∧
    decode .dual dnextCmd = .ok .dnext ∧ Instr.dnext.wellFormed (dualState dualSeeded []).dualPresent = true ∧
    (dualState dualSeeded []).busyOn .dual = false := by decide

/-- PermuterBitLevel: two states that agree in bits 63:27 only. -/
theorem witness_permuter_low_bits :
    (∀ i : Fin 64, 27 ≤ i.val → (0x07FFFFFF#64).getLsbD i.val = (0#64).getLsbD i.val) ∧ (0x07FFFFFF#64) ≠ 0#64 := by
  decide

/-- RotationCorners: rotations by 0 and by 31. -/
theorem witness_rotations :
    (0x07FFFFFFFFFFFFFF#64).toNat / 2 ^ 59 = 0 ∧ (0xF800000000000000#64).toNat / 2 ^ 59 = 31 := by decide

/-- NextCompletes: a seeded block at its corner states, an unseeded one, and the example's run. -/
theorem witness_next :
    seeded.seeded = true ∧ coreReset.seeded = false ∧
    (onNext (exec .next (coreState { seeded with state := 0#64 } [])) fun t =>
      t.core.res == 0#64 && t.core.state == 0x6D#64) = true ∧
    (onNext (exec .next (coreState { seeded with state := 0xFFFFFFFFFFFFFFFF#64 } [])) fun t =>
      t.core.res == 0xFFF00001#64) = true ∧
    (onNext (execSeq [.seed 42#64 54#64, .next] State.reset) fun t => t.core.res == 0xA15C02B7#64) = true := by decide

/-- SeedForgetsHistory: two machines with different histories, the same SEED and the same later moves. -/
theorem witness_histories :
    let rest : List HostInput := [.command .core nextCmd, .pass .core, .read .res, .reset .core (some nextCmd)]
    let s := coreState seeded (.command .core ⟨0x01#8, 1#64, 2#64, 0#64, 0#64⟩ :: rest)
    let s' := coreState { coreReset with res := 5#64 } (.command .core ⟨0x01#8, 1#64, 2#64, 3#64, 4#64⟩ :: rest)
    s.core.busy = false ∧ s'.core.busy = false ∧ (∀ m ∈ rest, m.port = .core) ∧ s.core ≠ s'.core := by decide

/-- OutputSequence: NEXTs with a query, a reserved opcode and BOUNDED 0 between. -/
theorem witness_sequence :
    let cmds : List Command :=
      [nextCmd, ⟨0x05#8, 0#64, 0#64, 0#64, 0#64⟩, ⟨0x07#8, 0#64, 0#64, 0#64, 0#64⟩,
        ⟨0x03#8, 0x100000000#64, 0#64, 0#64, 0#64⟩, nextCmd]
    (∀ x ∈ cmds, x.op ≠ 0x01#8 ∧ (x.op = 0x03#8 → x.a.toNat % 2 ^ 32 = 0)) ∧ cmds.getLast? = some nextCmd ∧
    nextCmd.op = 0x02#8 := by decide

/-- FullPeriod, JumpAhead: an odd increment. -/
theorem witness_odd_increment : (0x6D#64).getLsbD 0 = true ∧ (1#64).getLsbD 0 = true := by decide

/-- ThresholdIsPowerModBound, ComparatorIsExact: the smallest and the largest bound, and the largest result. -/
theorem witness_bounds :
    (1#32 ≠ 0#32) ∧ (0xFFFFFFFF#32 ≠ 0#32) ∧ (0xFFFFFFFFFFFFFFFF#64 ≠ 0#64) ∧ 0xFFFFFFFE < (0xFFFFFFFF#32).toNat := by
  decide

/-- BoundedAcceptance: the three cases. -/
theorem witness_bounded_cases :
    (coreState coreReset []).core.seeded = false ∧ (coreState seeded []).core.seeded = true ∧ (1#32 ≠ 0#32) ∧
    (onNext (exec (.bounded 0xFFFFFFFF#32) (coreState seeded [])) fun t => t.core.pthresh == 1#32) = true := by decide

/-- CoreDraw: a BOUNDED in progress with no move left, with a command waiting, and left to itself. -/
theorem witness_core_draw :
    drawing.busy = true ∧ drawing.pbound ≠ 0#32 ∧ (coreState drawing []).coreHeld ∧
    (coreState drawing [.command .core nextCmd]).coreHeld ∧
    (coreState drawing [.pass .core]).inputs = [.pass .core] :=
  ⟨rfl, by decide, .inl rfl, .inr ⟨nextCmd, [], rfl⟩, rfl⟩

/-- DrawCount: a BOUNDED in progress in a state of the invariant. -/
theorem witness_draw_count :
    (bothBusy [.command .core nextCmd]).Inv ∧ (bothBusy [.command .core nextCmd]).core.busy = true ∧
    (bothBusy [.command .core nextCmd]).coreHeld :=
  ⟨witness_inv_busy _, rfl, .inr ⟨nextCmd, [], rfl⟩⟩

/-- BoundedRunIsAtomic: BOUNDED 0x80000001 presented on a seeded block, with a command after it or none. -/
theorem witness_bounded_run :
    let c : Command := ⟨0x03#8, 0x80000001#64, 0#64, 0#64, 0#64⟩
    seeded.seeded = true ∧ seeded.inc.getLsbD 0 = true ∧ seeded.busy = false ∧ (0x80000001#32 ≠ 0#32) ∧ c.op = 0x03#8 ∧
    c.a.setWidth 32 = 0x80000001#32 ∧ (coreState seeded []).coreHeld ∧
    (coreState seeded [.command .core nextCmd]).coreHeld :=
  ⟨rfl, by decide, rfl, by decide, rfl, by decide, .inl rfl, .inr ⟨nextCmd, [], rfl⟩⟩

/-- A BOUNDED 6 presented on a seeded block, then a read, a wait for the wrapper and a wait for the block. -/
def boundedThenMoves : State :=
  coreState seeded [.command .core ⟨0x03#8, 6#64, 0#64, 0#64, 0#64⟩, .read .status, .pass .dual, .pass .core]

/-- BoundedEndsAmongHostMoves: those moves, with no move after them. -/
theorem witness_bounded_among_moves :
    boundedThenMoves.core.seeded = true ∧ boundedThenMoves.core.inc.getLsbD 0 = true ∧
    boundedThenMoves.core.busy = false ∧ (6#32 ≠ 0#32) ∧ (6#64).setWidth 32 = 6#32 ∧
    boundedThenMoves.inputs =
      .command .core ⟨0x03#8, 6#64, 0#64, 0#64, 0#64⟩ :: ([.read .status, .pass .dual, .pass .core] ++ []) ∧
    (∀ m ∈ [HostInput.read .status, .pass .dual, .pass .core],
      boundedThenMoves.hasPort m.port = true ∧ ((∃ reg, m = .read reg) ∨ ∃ p, m = .pass p)) ∧
    State.coreHeld { boundedThenMoves with inputs := [] } :=
  ⟨rfl, by decide, rfl, by decide, by decide, rfl, by simp [boundedThenMoves, coreState, State.reset, State.hasPort,
    HostInput.port, HostReg.port], .inl rfl⟩

/-- BoundedEndIsAtomic: the block is busy after the acceptance, the read and the first wait, and its draw ends the BOUNDED
in the second wait (95 L1.5: the first BOUNDED 6 after SEED 42, 54 gives 3). -/
theorem witness_bounded_end :
    (onNext (runSteps 1 boundedThenMoves) fun u => u.core.busy && u.inputs == [.read .status, .pass .dual, .pass .core]) =
      true ∧
    (onNext (runSteps 2 boundedThenMoves) fun u => u.core.busy && u.inputs == [.pass .dual, .pass .core]) = true ∧
    (onNext (runSteps 3 boundedThenMoves) fun u => u.core.busy && u.inputs == [.pass .core]) = true ∧
    (onNext (runSteps 4 boundedThenMoves) fun t => !t.core.busy && t.core.res == 3#64) = true := by decide

/-- BoundedResultInRange: a draw that ends a BOUNDED, and no reset. -/
theorem witness_bounded_ends :
    let s := bothBusy [.command .core nextCmd]
    let s' := { s with core := { s.core with state := 0x8B33296D19BF5B4E#64 } }
    s'.core.busy = true ∧ (onNext (step s') fun t => !t.core.busy && t.core.res == 0x3A1D332F#64) = true := by decide

/-- ErrorReportIsPrecise, CoreCommandFrame, DualCommandFrame: commands that report and commands that complete. -/
theorem witness_reports :
    (onNext (exec (.bounded 0#32) (coreState seeded [])) fun t => t.errOn .core != .ok) = true ∧
    (onNext (exec .dnext State.reset) fun t => t.errOn .dual != .ok) = true ∧
    (onNext (exec .rdinc State.reset) fun t => t.errOn .core == .ok) = true ∧
    (onNext (exec .dfootprint State.reset) fun t => t.errOn .dual == .ok) = true := by decide

/-- SelectorCorrection: selectors that agree in bits 62:0, and selectors that do not. -/
theorem witness_selectors :
    (54#64).toNat % 2 ^ 63 = (0x8000000000000036#64).toNat % 2 ^ 63 ∧
    (0#64).toNat % 2 ^ 63 ≠ (0x4000000000000000#64).toNat % 2 ^ 63 := by decide

/-- DseedCompletes, DnextCompletes, DboundedAcceptance, DfootprintCompletes, ConcatenationOfTwoCores, WrapperPeriod: a
machine with the wrapper, unseeded and seeded. -/
theorem witness_wrapper :
    State.reset.dualPresent = true ∧ State.reset.dual.seeded = false ∧ (dualState dualSeeded []).dualPresent = true ∧
    dualSeeded.seeded = true ∧ dualSeeded.inc0.getLsbD 0 = true ∧ dualSeeded.inc1.getLsbD 0 = true ∧
    (onNext (execSeq [.dseed 42#64 54#64 54#64 54#64, .dnext] State.reset) fun t =>
      t.dual.res == 0xA15C02B7CC917BB5#64) = true := by decide

/-- WrapperDraw: the three ways in which the wrapper draws. -/
theorem witness_wrapper_draw :
    dualDrawing.busy = true ∧ dualDrawing.pbound ≠ 0#64 ∧ (dualState dualDrawing []).core.busy = false ∧
    (dualState dualDrawing []).inputs = [] ∧ (dualState dualDrawing [.pass .dual]).inputs = [.pass .dual] ∧
    (dualState dualDrawing [.command .dual dnextCmd]).inputs = [.command .dual dnextCmd] := by decide

/-- DboundedRunIsAtomic: DBOUNDED 6 presented on a seeded wrapper, with a command after it or none. -/
theorem witness_dbounded_run :
    let c : Command := ⟨0x13#8, 6#64, 0#64, 0#64, 0#64⟩
    dualSeeded.busy = false ∧ c.op = 0x13#8 ∧ c.a ≠ 0#64 ∧ (dualState dualSeeded []).core.busy = false ∧
    (dualState dualSeeded [.command .dual c, .command .dual dnextCmd]).inputs =
      [.command .dual c, .command .dual dnextCmd] := by decide

/-- A DBOUNDED 6 presented on a seeded wrapper beside a CORE block with a BOUNDED in progress, then a read, a CORE command
and a wait for the wrapper. -/
def dboundedThenMoves : State :=
  { bothBusy [.command .dual ⟨0x13#8, 6#64, 0#64, 0#64, 0#64⟩, .read .status, .command .core nextCmd, .pass .dual] with
    dual := dualSeeded }

/-- DboundedEndsAmongHostMoves: those moves, with no move after them. -/
theorem witness_dbounded_among_moves :
    dboundedThenMoves.Inv ∧ dboundedThenMoves.dualPresent = true ∧ dboundedThenMoves.dual.seeded = true ∧
    dboundedThenMoves.dual.busy = false ∧ (6#64 ≠ 0#64) ∧
    dboundedThenMoves.inputs = .command .dual ⟨0x13#8, 6#64, 0#64, 0#64, 0#64⟩ ::
      ([.read .status, .command .core nextCmd, .pass .dual] ++ []) ∧
    (∀ m ∈ [HostInput.read .status, .command .core nextCmd, .pass .dual],
      m.port = .core ∨ (∃ reg, m = .read reg) ∨ ∃ p, m = .pass p) :=
  ⟨⟨witness_core_inv_drawing, ⟨by decide, by decide, by decide⟩, by intro h; cases h⟩, rfl, rfl, rfl, by decide, rfl,
    by simp [HostInput.port, HostReg.port]⟩

/-- DboundedEndIsAtomic: the wrapper is busy while the read, CORE's two draws and its NEXT pass, and its draw ends the
DBOUNDED in the wait (R137: after DSEED 42, 54, 54, 54 DBOUNDED 6 writes 5). -/
theorem witness_dbounded_end :
    dboundedThenMoves.dual.inc0.getLsbD 0 = true ∧ dboundedThenMoves.dual.inc1.getLsbD 0 = true ∧
    (onNext (runSteps 1 dboundedThenMoves) fun u =>
      u.dual.busy && u.inputs == [.read .status, .command .core nextCmd, .pass .dual]) = true ∧
    ((List.range 3).all fun j => onNext (runSteps (j + 2) dboundedThenMoves) fun u =>
      u.dual.busy && u.inputs == [.command .core nextCmd, .pass .dual]) = true ∧
    (onNext (runSteps 5 dboundedThenMoves) fun u => u.dual.busy && u.inputs == [.pass .dual]) = true ∧
    (onNext (runSteps 6 dboundedThenMoves) fun t => !t.dual.busy && t.dual.res == 5#64) = true := by decide

/-- BusyHoldEnds: a command waiting on each port. -/
theorem witness_held (p : Port) :
    (bothBusy [.command p nextCmd]).Inv ∧ (bothBusy [.command p nextCmd]).hasPort p = true ∧
    (bothBusy [.command p nextCmd]).busyOn p = true :=
  ⟨witness_inv_busy _, by cases p <;> rfl, by cases p <;> rfl⟩

/-- WaitingMachineHoldsState: the reset state is quiet, and so is a seeded one. -/
theorem witness_quiet : State.reset.quiet ∧ (coreState seeded []).quiet := ⟨⟨rfl, rfl, rfl⟩, ⟨rfl, rfl, rfl⟩⟩

/-- OnlyAbsentWrapperStops, AbsentWrapperStops: each DUAL move on a machine without the wrapper. -/
theorem witness_absent_wrapper :
    (HostInput.command .dual dnextCmd).port = .dual ∧ (HostInput.read .dres).port = .dual ∧
    (HostInput.read .dstatus).port = .dual ∧ (HostInput.reset .dual none).port = .dual ∧
    (HostInput.pass .dual).port = .dual ∧ { State.reset with dualPresent := false }.hasPort .dual = false := by decide

/-- BlocksAreIndependent, ReadsHaveNoSideEffect: moves for each block on a machine with both at work. -/
theorem witness_independent :
    (onNext (step (bothBusy [.read .res])) fun t => t.hostRead == 0x215C02B6#64) = true ∧
    (onNext (step (bothBusy [.read .dstatus])) fun t => t.hostRead == 3#64) = true ∧
    (onNext (step (bothBusy [.pass .dual])) fun t => t.core == drawing && t.dual != dualDrawing) = true := by decide

/-- PlacedWordRunsNext: words that decode. -/
theorem witness_placed : decodeTableWord 8 0x05 = some .rdstate ∧ decodeTableWord 8 0x12 = some .dnext := by decide

end Sys2Proof.Tests
end

section
/-! Where the machine stops (00_scope.md R6, R14; log 4): a command, and with it every move of the host, completes on a
machine that has its port, and the only port a machine can lack is the wrapper's. -/

namespace Sys2Proof.Machine

variable {s : State}

/-- The only port that a machine can lack is the wrapper's (R6, R130). -/
theorem hasPort_eq_false_iff {port : Port} :
    s.hasPort port = false ↔ port = .dual ∧ s.dualPresent = false := by
  cases port <;> simp

/-- Every command completes on a machine that has its port. -/
theorem exec_completes {i : Instr} (hp : s.hasPort i.port = true) : ∃ t, exec i s = .next t := by
  cases hi : i.port with
  | core =>
    obtain ⟨r, hr, -⟩ := exec_core_cases s hi
    exact ⟨_, hr⟩
  | dual =>
    rw [hi, hasPort_dual] at hp
    obtain ⟨r, hr, -⟩ := exec_dual_cases hi hp
    exact ⟨_, hr⟩

/-- The acceptance of a presented command completes, whether its opcode is a command's or reserved (R55, R56). -/
theorem acceptCommand_completes {port : Port} (cmd : Command) (hp : s.hasPort port = true) :
    ∃ t, acceptCommand port cmd s = .next t := by
  cases hd : decode port cmd with
  | ok i =>
    rw [acceptCommand_ok hd]
    exact exec_completes (by rwa [decode_port hd])
  | error e => exact ⟨_, acceptCommand_error hd⟩

/-- Every move of the host completes on a machine that has the port it is for. -/
theorem step_completes_of_present {move : HostInput} {rest : List HostInput} (h : s.inputs = move :: rest)
    (hp : s.hasPort move.port = true) : ∃ t, step s = .next t := by
  cases move with
  | command port cmd =>
    cases hb : s.busyOn port with
    | true => exact ⟨_, step_command_held h hp hb⟩
    | false =>
      rw [step_command_taken h hp hb]
      exact acceptCommand_completes (s := { s with inputs := rest }) cmd hp
  | reset port presented => exact ⟨_, step_reset h hp⟩
  | read reg => exact ⟨_, step_read h hp⟩
  | pass port => exact ⟨_, step_pass h hp⟩

/-- Settles O47, by the host's next move: none, one for a port that is there, or one for the absent wrapper. -/
theorem onlyAbsentWrapperStops : Obligations.OnlyAbsentWrapperStops := by
  intro s
  match hin : s.inputs with
  | [] => exact .inl ⟨_, step_nil hin⟩
  | move :: rest =>
    cases hp : s.hasPort move.port with
    | true => exact .inl (step_completes_of_present hin hp)
    | false =>
      obtain ⟨hport, habsent⟩ := hasPort_eq_false_iff.mp hp
      exact .inr ⟨habsent, step_absent hin hp, move, rest, rfl, hport⟩

/-- Settles O48: the commands by `exec_dual_absent`, the host's moves by `step_absent`. -/
theorem absentWrapperStops : Obligations.AbsentWrapperStops :=
  ⟨fun _ _ hport habsent => exec_dual_absent hport habsent,
    fun _ _ _ hin hport habsent => step_absent hin (hasPort_eq_false_iff.mpr ⟨hport, habsent⟩)⟩

end Sys2Proof.Machine
end

section
/-! The layout of the status words (10_state.md R23, R25, R32). -/

namespace Sys2Proof.Machine

/-- No rule writes one of the codes 4 to 7 (R25, R29). -/
theorem errBits_toNat_lt (err : ErrCode) : (errBits err).toNat < 4 := by
  cases err <;> decide

/-- The status word as a number: its three fields at their places (R23). -/
theorem packStatus_toNat (busy seeded : Bool) (err : ErrCode) :
    (packStatus busy seeded err).toNat = 4 * (errBits err).toNat + 2 * seeded.toNat + busy.toNat := by
  cases busy <;> cases seeded <;> cases err <;> rfl

/-- Above the error code every bit of the status word reads as 0 (R23). -/
theorem packStatus_getLsbD_reserved (busy seeded : Bool) (err : ErrCode) {j : Nat} (hj : 5 ≤ j) :
    (packStatus busy seeded err).getLsbD j = false := by
  have hlt : (packStatus busy seeded err).toNat < 2 ^ 5 := by
    rw [packStatus_toNat]
    have := busy.toNat_le
    have := seeded.toNat_le
    have := errBits_toNat_lt err
    omega
  exact Nat.testBit_lt_two_pow (hlt.trans_le (Nat.pow_le_pow_right (by decide) hj))

/-- The fields of the status word at their places (R23). -/
theorem packStatus_layout (busy seeded : Bool) (err : ErrCode) :
    (packStatus busy seeded err).getLsbD 0 = busy ∧ (packStatus busy seeded err).getLsbD 1 = seeded ∧
    (packStatus busy seeded err).toNat / 4 = (errBits err).toNat ∧
    ∀ j, 5 ≤ j → (packStatus busy seeded err).getLsbD j = false := by
  refine ⟨?_, ?_, ?_, fun _ => packStatus_getLsbD_reserved busy seeded err⟩
  · rw [packStatus, BitVec.getLsbD_append]
    simp
  · rw [packStatus, BitVec.getLsbD_append, BitVec.getLsbD_append]
    simp
  · rw [packStatus_toNat]
    have := busy.toNat_le
    have := seeded.toNat_le
    omega

/-- Settles O50: both words are `packStatus` of their block's three fields. -/
theorem statusLayout : Obligations.StatusLayout :=
  ⟨fun r => packStatus_layout r.busy r.seeded r.err, fun r => packStatus_layout r.busy r.seeded r.err,
    rfl, rfl, rfl, rfl⟩

end Sys2Proof.Machine
end

section
/-! What each command leaves unchanged (10_state.md R20, R21, R27, R30, R32). -/

namespace Sys2Proof.Machine

variable {s t : State} {i : Instr}

/-- A CORE command that answers had one of `CoreEffect`'s effects on the CORE block and none elsewhere. -/
theorem exec_core_inv (hi : i.port = .core) (h : exec i s = .next t) :
    ∃ r, t = { s with core := r } ∧ CoreEffect s.core r := by
  obtain ⟨r, hr, heff⟩ := exec_core_cases s hi
  cases hr.symm.trans h
  exact ⟨r, rfl, heff⟩

/-- A DUAL command that answers did so on a machine with the wrapper, and had one of `DualEffect`'s effects on the
wrapper and none elsewhere. -/
theorem exec_dual_inv (hi : i.port = .dual) (h : exec i s = .next t) :
    s.dualPresent = true ∧ ∃ r, t = { s with dual := r } ∧ DualEffect s.dual r := by
  cases hp : s.dualPresent with
  | false => cases (exec_dual_absent hi hp).symm.trans h
  | true =>
    obtain ⟨r, hr, heff⟩ := exec_dual_cases hi hp
    cases hr.symm.trans h
    exact ⟨rfl, r, by rw [hp], heff⟩

/-- NEXT writes `STATE` and `RES` beside the outcome, or only reports (R84). -/
theorem execNext_core (h : execNext s = .next t) :
    t.core = { s.core with state := t.core.state, res := t.core.res, err := t.core.err } := by
  cases hs : s.core.seeded with
  | true => cases (execNext_seeded hs).symm.trans h; rfl
  | false => cases (execNext_unseeded hs).symm.trans h; rfl

/-- BOUNDED writes `PBOUND`, `PTHRESH` and `BUSY` beside the outcome, or only reports (R104). -/
theorem execBounded_core {bound : U32} (h : execBounded bound s = .next t) :
    t.core = { s.core with
      pbound := t.core.pbound, pthresh := t.core.pthresh, busy := t.core.busy, err := t.core.err } := by
  cases hs : s.core.seeded with
  | false => cases (execBounded_unseeded bound hs).symm.trans h; rfl
  | true =>
    by_cases hb : bound = 0#32
    · subst hb
      cases (execBounded_zero hs).symm.trans h
      rfl
    · cases (execBounded_accepted hs hb).symm.trans h
      rfl

/-- DNEXT writes both states and `DRES` beside the outcome, or only reports (R134). -/
theorem execDnext_dual (hp : s.dualPresent = true) (h : execDnext s = .next t) :
    t.dual = { s.dual with
      state0 := t.dual.state0, state1 := t.dual.state1, res := t.dual.res, err := t.dual.err } := by
  cases hs : s.dual.seeded with
  | true => cases (execDnext_seeded hp hs).symm.trans h; rfl
  | false => cases (execDnext_unseeded hp hs).symm.trans h; rfl

/-- DBOUNDED writes `DPBOUND`, `DPTHRESH` and `DBUSY` beside the outcome, or only reports (R136). -/
theorem execDbounded_dual {bound : U64} (hp : s.dualPresent = true) (h : execDbounded bound s = .next t) :
    t.dual = { s.dual with
      pbound := t.dual.pbound, pthresh := t.dual.pthresh, busy := t.dual.busy, err := t.dual.err } := by
  cases hs : s.dual.seeded with
  | false => cases (execDbounded_unseeded bound hp hs).symm.trans h; rfl
  | true =>
    by_cases hb : bound = 0#64
    · subst hb
      cases (execDbounded_zero hp hs).symm.trans h
      rfl
    · cases (execDbounded_accepted hp hs hb).symm.trans h
      rfl

/-- Settles O31: outside the CORE block by `exec_core_inv`, inside it command by command. -/
theorem coreCommandFrame : Obligations.CoreCommandFrame := by
  intro i s t hi h
  obtain ⟨r, rfl, -⟩ := exec_core_inv hi h
  refine ⟨rfl, rfl, rfl, rfl, ?_⟩
  cases i with
  | seed seed sel => cases h; simp
  | next => rw [execNext_core h]; simp
  | bounded bound => rw [execBounded_core h]; simp
  | footprint => cases h; simp
  | rdstate => cases h; simp
  | rdinc => cases h; simp
  | dseed _ _ _ _ => cases hi
  | dnext => cases hi
  | dbounded _ => cases hi
  | dfootprint => cases hi

/-- Settles O32: outside the wrapper by `exec_dual_inv`, inside it command by command. -/
theorem dualCommandFrame : Obligations.DualCommandFrame := by
  intro i s t hi h
  obtain ⟨hp, r, rfl, -⟩ := exec_dual_inv hi h
  refine ⟨rfl, rfl, rfl, rfl, ?_⟩
  cases i with
  | seed _ _ => cases hi
  | next => cases hi
  | bounded _ => cases hi
  | footprint => cases hi
  | rdstate => cases hi
  | rdinc => cases hi
  | dseed seed1 seed2 sel1 sel2 => cases (execDseed_present seed1 seed2 sel1 sel2 hp).symm.trans h; simp
  | dnext => rw [execDnext_dual hp h]; simp
  | dbounded bound => rw [execDbounded_dual hp h]; simp
  | dfootprint => cases (execDfootprint_present hp).symm.trans h; simp

end Sys2Proof.Machine
end

section
/-! What the invariant needs from the datapath: thresholds lie below their bounds, and the selector correction makes the
increments differ (42_bounded.md R100, 44_dual_stream.md R132, R139). -/

namespace Sys2Proof.Machine

/-- The threshold of a nonzero bound is below the bound (R100). -/
theorem thresh_lt {w : Nat} {bound : BitVec w} (hb : bound ≠ 0#w) : (thresh bound).toNat < bound.toNat :=
  umod_lt _ hb

/-- Bit `j + 1` of the increment is bit `j` of the selector (R70). -/
theorem incrementOf_getLsbD_succ (sel : U64) {j : Nat} (hj : j < 63) :
    (incrementOf sel).getLsbD (j + 1) = sel.getLsbD j := by
  simpa [incrementOf] using fun _ => (by omega : j + 1 < 64)

/-- Selectors that give one increment agree in bits 62:0 (R74). -/
theorem mask_eq_of_incrementOf_eq {sel1 sel2 : U64} (h : incrementOf sel1 = incrementOf sel2) :
    sel1 &&& Config.dualMask = sel2 &&& Config.dualMask := by
  apply BitVec.eq_of_getLsbD_eq
  intro j hj
  by_cases hlow : j < 63
  · have hbit := incrementOf_getLsbD_succ sel1 hlow
    rw [h, incrementOf_getLsbD_succ sel2 hlow] at hbit
    simp [hbit]
  · obtain rfl : j = 63 := by omega
    simp [Config.dualMask]

/-- The corrected selector differs from the first one in bits 62:0 (R132). -/
theorem mask_ne_mask_correct (sel1 sel2 : U64) :
    sel1 &&& Config.dualMask ≠ correct sel1 sel2 &&& Config.dualMask := by
  by_cases h : sel1 &&& Config.dualMask = sel2 &&& Config.dualMask
  · rw [correct_of_eq h, h]
    intro hc
    have := congrArg (BitVec.getLsbD · 0) hc
    simp [Config.dualMask] at this
  · rwa [correct_of_ne h]

/-- The two generators of a seeded wrapper have different increments (R132, R139). -/
theorem incrementOf_ne_incrementOf_correct (sel1 sel2 : U64) : incrementOf sel1 ≠ incrementOf (correct sel1 sel2) :=
  fun h => mask_ne_mask_correct sel1 sel2 (mask_eq_of_incrementOf_eq h)

end Sys2Proof.Machine
end

section
/-! What one step can do to each block, said once per block. -/

namespace Sys2Proof.Machine

variable {s t : State}

/-- The CORE block's own transition: a draw while it is busy (R105, R165). -/
theorem ownTransition_core_core : (ownTransition .core s).core = if s.core.busy then drawCore s.core else s.core := by
  rw [ownTransition, apply_ite State.core, mapCore_core]

/-- The wrapper's own transition: a draw while it is busy (R137, R165). -/
theorem ownTransition_dual_dual : (ownTransition .dual s).dual = if s.dual.busy then drawDual s.dual else s.dual := by
  rw [ownTransition, apply_ite State.dual, mapDual_dual]

/-- The wrapper's own transition leaves the CORE block as it is (R130). -/
@[simp] theorem ownTransition_dual_core : (ownTransition .dual s).core = s.core := by
  rw [ownTransition, apply_ite State.core, mapDual_core, ite_self]

/-- The CORE block's own transition leaves the wrapper as it is (R130). -/
@[simp] theorem ownTransition_core_dual : (ownTransition .core s).dual = s.dual := by
  rw [ownTransition, apply_ite State.dual, mapCore_dual, ite_self]

/-- No own transition changes `DUAL_PRESENT` (R8). -/
@[simp] theorem ownTransition_dualPresent {port : Port} : (ownTransition port s).dualPresent = s.dualPresent := by
  cases port <;> unfold ownTransition <;> dsimp only <;> split <;> rfl

/-- A decoded command has the opcode of its transaction (R53, R54, R55). -/
theorem decode_opcode {port : Port} {cmd : Command} {i : Instr} (h : decode port cmd = .ok i) : i.opcode = cmd.op := by
  cases port with
  | core =>
    simp only [decode, decodeCore] at h
    split_ifs at h <;> cases h <;> exact ‹cmd.op = _›.symm
  | dual =>
    simp only [decode, decodeDual] at h
    split_ifs at h <;> cases h <;> exact ‹cmd.op = _›.symm

/-- No draw writes `INC` (R105). -/
@[simp] theorem drawCore_inc (r : CoreRegs) : (drawCore r).inc = r.inc := by
  unfold drawCore
  split <;> rfl

/-- No draw writes `SEEDED` (R105). -/
@[simp] theorem drawCore_seeded (r : CoreRegs) : (drawCore r).seeded = r.seeded := by
  unfold drawCore
  split <;> rfl

/-- What a step can do to the CORE block. -/
inductive CoreStep (s t : State) : Prop where
  | kept (h : t.core = s.core)
  | drew (hb : s.core.busy = true) (h : t.core = drawCore s.core)
  | executed {cmd : Command} {rest : List HostInput} {i : Instr} (hin : s.inputs = .command .core cmd :: rest)
      (hb : s.core.busy = false) (hd : decode .core cmd = .ok i) (he : exec i { s with inputs := rest } = .next t)
  | reported (hb : s.core.busy = false) (h : t.core = { s.core with err := .illegalOp })
  | reset {presented : Option Command} {rest : List HostInput} (hin : s.inputs = .reset .core presented :: rest)
      (h : t.core = coreReset)

/-- What a step can do to the wrapper: whatever changes it needs the wrapper's port. -/
inductive DualStep (s t : State) : Prop where
  | kept (h : t.dual = s.dual)
  | drew (hp : s.dualPresent = true) (hb : s.dual.busy = true) (h : t.dual = drawDual s.dual)
  | executed (hp : s.dualPresent = true) (hb : s.dual.busy = false) (he : DualEffect s.dual t.dual)
  | reset (hp : s.dualPresent = true) (h : t.dual = dualReset)

/-- The CORE block's own transition is a draw or no change. -/
theorem coreStep_of_own (h : t.core = if s.core.busy then drawCore s.core else s.core) : CoreStep s t := by
  split at h
  · exact .drew ‹_› h
  · exact .kept h

/-- The wrapper's own transition is a draw or no change. -/
theorem dualStep_of_own (hp : s.dualPresent = true) (h : t.dual = if s.dual.busy then drawDual s.dual else s.dual) :
    DualStep s t := by
  split at h
  · exact .drew hp ‹_› h
  · exact .kept h

/-- With no move of the host left the CORE block makes its own transition (log 3). -/
theorem freeRun_core : (freeRun s).core = (ownTransition .core s).core := by
  cases hb : s.core.busy with
  | true => simp [freeRun, hb]
  | false => simp [freeRun, hb, ownTransition_core_idle hb, apply_ite State.core]

/-- With no move of the host left the wrapper makes its own transition or waits (log 3). -/
theorem freeRun_dual :
    (freeRun s).dual = s.dual ∨ s.dualPresent = true ∧ (freeRun s).dual = (ownTransition .dual s).dual := by
  cases hb : s.core.busy with
  | true => exact .inl (by simp [freeRun, hb])
  | false =>
    cases hp : s.dualPresent with
    | true => exact .inr ⟨rfl, by simp [freeRun, hb, hp]⟩
    | false => exact .inl (by simp [freeRun, hb, hp])

/-- No free run changes `DUAL_PRESENT` (R8). -/
@[simp] theorem freeRun_dualPresent : (freeRun s).dualPresent = s.dualPresent := by
  unfold freeRun
  split
  · exact ownTransition_dualPresent
  · split
    · exact ownTransition_dualPresent
    · rfl

/-- No step changes `DUAL_PRESENT` (R8; log 1). -/
theorem step_dualPresent (h : step s = .next t) : t.dualPresent = s.dualPresent := by
  cases step_cases h with
  | freeRun hin => exact freeRun_dualPresent
  | held hin hp hb => exact ownTransition_dualPresent
  | @taken port _ _ i _ hin hp hb hd he =>
    cases port with
    | core =>
      obtain ⟨r, rfl, -⟩ := exec_core_inv (decode_port hd) he
      rfl
    | dual =>
      obtain ⟨-, r, rfl, -⟩ := exec_dual_inv (decode_port hd) he
      rfl
  | @illegal port _ _ _ hin hp hb hd => cases port <;> rfl
  | @reset port _ _ hin hp => cases port <;> rfl
  | read hin hp => rfl
  | pass hin hp => exact ownTransition_dualPresent

/-- The inversion of `step` for the CORE block. -/
theorem step_core_cases (h : step s = .next t) : CoreStep s t := by
  cases step_cases h with
  | freeRun hin => exact coreStep_of_own (freeRun_core.trans ownTransition_core_core)
  | @held port _ _ hin hp hb =>
    cases port with
    | core => exact coreStep_of_own ownTransition_core_core
    | dual => exact .kept ownTransition_dual_core
  | @taken port _ _ _ _ hin hp hb hd he =>
    cases port with
    | core => exact .executed hin hb hd he
    | dual =>
      obtain ⟨-, r, rfl, -⟩ := exec_dual_inv (decode_port hd) he
      exact .kept rfl
  | @illegal port _ _ _ hin hp hb hd =>
    cases port with
    | core => exact .reported hb rfl
    | dual => exact .kept rfl
  | @reset port _ _ hin hp =>
    cases port with
    | core => exact .reset hin rfl
    | dual => exact .kept rfl
  | read hin hp => exact .kept rfl
  | @pass port rest hin hp =>
    cases port with
    | core => exact coreStep_of_own ownTransition_core_core
    | dual => exact .kept ownTransition_dual_core

/-- The inversion of `step` for the wrapper. -/
theorem step_dual_cases (h : step s = .next t) : DualStep s t := by
  cases step_cases h with
  | freeRun hin =>
    obtain hkept | ⟨hp, hown⟩ := freeRun_dual (s := s)
    · exact .kept hkept
    · exact dualStep_of_own hp (hown.trans ownTransition_dual_dual)
  | @held port _ _ hin hp hb =>
    cases port with
    | core => exact .kept ownTransition_core_dual
    | dual => exact dualStep_of_own hp ownTransition_dual_dual
  | @taken port _ _ _ _ hin hp hb hd he =>
    cases port with
    | core =>
      obtain ⟨r, rfl, -⟩ := exec_core_inv (decode_port hd) he
      exact .kept rfl
    | dual =>
      obtain ⟨-, r, rfl, heff⟩ := exec_dual_inv (decode_port hd) he
      exact .executed hp hb heff
  | @illegal port _ _ _ hin hp hb hd =>
    cases port with
    | core => exact .kept rfl
    | dual => exact .executed hp hb (.failed .illegalOp (by decide))
  | @reset port _ _ hin hp =>
    cases port with
    | core => exact .kept rfl
    | dual => exact .reset hp rfl
  | read hin hp => exact .kept rfl
  | @pass port rest hin hp =>
    cases port with
    | core => exact .kept ownTransition_core_dual
    | dual => exact dualStep_of_own hp ownTransition_dual_dual

end Sys2Proof.Machine
end

section
/-! The invariant of R29 and R33: it holds at reset and every step keeps it, so every reachable state meets it. -/

namespace Sys2Proof.Machine

variable {s t : State}

/-- The CORE block's invariant at reset (R31). -/
theorem coreInv_reset : CoreInv coreReset := ⟨fun _ => ⟨rfl, rfl⟩, nofun, nofun⟩

/-- The wrapper's invariant at reset (R34). -/
theorem dualInv_reset : DualInv dualReset := ⟨fun _ => ⟨rfl, rfl, rfl, rfl⟩, nofun, nofun⟩

/-- A command accepted on the idle CORE port keeps the block's invariant (R29). -/
theorem coreInv_effect {r r' : CoreRegs} (hinv : CoreInv r) (hb : r.busy = false) (h : CoreEffect r r') :
    CoreInv r' := by
  have hidle : r.busy ≠ true := by simp [hb]
  cases h with
  | failed e he => exact ⟨hinv.unseeded, hinv.odd, (absurd · hidle)⟩
  | answered v => exact ⟨hinv.unseeded, hinv.odd, (absurd · hidle)⟩
  | seeded seed sel => exact ⟨nofun, fun _ => incrementOf_odd sel, (absurd · hidle)⟩
  | stepped hs =>
    have hseeded : r.seeded ≠ false := by simp [hs]
    exact ⟨(absurd · hseeded), hinv.odd, (absurd · hidle)⟩
  | began bound hs hbound => exact ⟨hinv.unseeded, hinv.odd, fun _ => ⟨hs, rfl, hbound, rfl, thresh_lt hbound⟩⟩

/-- A command accepted on the idle DUAL port keeps the wrapper's invariant (R33). -/
theorem dualInv_effect {r r' : DualRegs} (hinv : DualInv r) (hb : r.busy = false) (h : DualEffect r r') :
    DualInv r' := by
  have hidle : r.busy ≠ true := by simp [hb]
  cases h with
  | failed e he => exact ⟨hinv.unseeded, hinv.odd, (absurd · hidle)⟩
  | answered v => exact ⟨hinv.unseeded, hinv.odd, (absurd · hidle)⟩
  | seeded seed1 seed2 sel1 sel2 =>
    exact ⟨nofun, fun _ => ⟨incrementOf_odd sel1, incrementOf_odd _, incrementOf_ne_incrementOf_correct sel1 sel2⟩,
      (absurd · hidle)⟩
  | stepped hs =>
    have hseeded : r.seeded ≠ false := by simp [hs]
    exact ⟨(absurd · hseeded), hinv.odd, (absurd · hidle)⟩
  | began bound hs hbound => exact ⟨hinv.unseeded, hinv.odd, fun _ => ⟨hs, rfl, hbound, rfl, thresh_lt hbound⟩⟩

/-- A draw of a busy CORE block keeps the block's invariant (R29, R105). -/
theorem coreInv_drawCore {r : CoreRegs} (hinv : CoreInv r) (hb : r.busy = true) : CoreInv (drawCore r) := by
  obtain ⟨hs, -⟩ := hinv.pending hb
  have hseeded : r.seeded ≠ false := by simp [hs]
  cases ha : accept (perm r.state) r.pthresh with
  | true => rw [drawCore_accepted ha]; exact ⟨(absurd · hseeded), hinv.odd, nofun⟩
  | false => rw [drawCore_rejected ha]; exact ⟨(absurd · hseeded), hinv.odd, hinv.pending⟩

/-- A draw of the busy wrapper keeps its invariant (R33, R137). -/
theorem dualInv_drawDual {r : DualRegs} (hinv : DualInv r) (hb : r.busy = true) : DualInv (drawDual r) := by
  obtain ⟨hs, -⟩ := hinv.pending hb
  have hseeded : r.seeded ≠ false := by simp [hs]
  cases ha : accept (dualDraw r.state0 r.state1) r.pthresh with
  | true => rw [drawDual_accepted ha]; exact ⟨(absurd · hseeded), hinv.odd, nofun⟩
  | false => rw [drawDual_rejected ha]; exact ⟨(absurd · hseeded), hinv.odd, hinv.pending⟩

/-- Every step keeps the CORE block's invariant. -/
theorem coreInv_step (hinv : CoreInv s.core) (h : step s = .next t) : CoreInv t.core := by
  cases step_core_cases h with
  | kept hkept => rwa [hkept]
  | drew hb hdraw => rw [hdraw]; exact coreInv_drawCore hinv hb
  | executed hin hb hd he =>
    obtain ⟨r, rfl, heff⟩ := exec_core_inv (decode_port hd) he
    exact coreInv_effect hinv hb heff
  | reported hb herr => rw [herr]; exact coreInv_effect hinv hb (.failed .illegalOp (by decide))
  | reset hin hreset => rw [hreset]; exact coreInv_reset

/-- Every step keeps the wrapper's invariant. -/
theorem dualInv_step (hinv : DualInv s.dual) (h : step s = .next t) : DualInv t.dual := by
  cases step_dual_cases h with
  | kept hkept => rwa [hkept]
  | drew hp hb hdraw => rw [hdraw]; exact dualInv_drawDual hinv hb
  | executed hp hb heff => exact dualInv_effect hinv hb heff
  | reset hp hreset => rw [hreset]; exact dualInv_reset

/-- No step reaches the registers of an absent wrapper (R6; log 1). -/
theorem step_dual_of_absent (habsent : s.dualPresent = false) (h : step s = .next t) : t.dual = s.dual := by
  have hno : s.dualPresent ≠ true := by simp [habsent]
  cases step_dual_cases h with
  | kept hkept => exact hkept
  | drew hp _ _ => exact absurd hp hno
  | executed hp _ _ => exact absurd hp hno
  | reset hp _ => exact absurd hp hno

/-- Settles O9, block by block. -/
theorem stepKeepsInvariant : Obligations.StepKeepsInvariant := by
  intro s t hinv h
  refine ⟨coreInv_step hinv.core h, dualInv_step hinv.dual h, fun habsent => ?_⟩
  rw [step_dualPresent h] at habsent
  rw [step_dual_of_absent habsent h, hinv.absent habsent]

/-- Settles O6, from the reset values of the two blocks. -/
theorem resetValues : Obligations.ResetValues := by
  have hcore : statusWord State.reset.core = 0#32 := by decide
  have hdual : dstatusWord State.reset.dual = 0#32 := by decide
  exact ⟨rfl, rfl, rfl, rfl, rfl, rfl, rfl, rfl, hcore, rfl, rfl, rfl, rfl, rfl, rfl, rfl, hdual⟩

/-- Settles O8, from the two blocks at their reset values. -/
theorem resetMeetsInvariant : Obligations.ResetMeetsInvariant :=
  fun _ _ => ⟨coreInv_reset, dualInv_reset, fun _ => rfl⟩

/-- What holds at the start of a run and is kept by every step holds at its end. -/
theorem runSteps_keeps {P : State → Prop} (hstep : ∀ s t, P s → step s = .next t → P t) {k : Nat} (hs : P s)
    (h : runSteps k s = .next t) : P t := by
  induction k generalizing s with
  | zero => cases h; exact hs
  | succ k ih =>
    rw [runSteps] at h
    cases hu : step s with
    | next u => rw [hu] at h; exact ih (hstep s u hs hu) h
    | fault r => rw [hu] at h; cases h
    | refused r => rw [hu] at h; cases h

/-- Settles O10, from the invariant at reset and at every step; the bound on `ERR` is that of its four codes. -/
theorem reachableStatesMeetInvariant : Obligations.ReachableStatesMeetInvariant := by
  intro present moves k t h
  obtain ⟨⟨hunseeded, hodd, hpending⟩, -, -⟩ :=
    runSteps_keeps stepKeepsInvariant (resetMeetsInvariant present moves) h
  refine ⟨hunseeded, hodd, fun hb => ?_, errBits_toNat_lt t.core.err⟩
  obtain ⟨hs, -, -, hthresh, hlt⟩ := hpending hb
  exact ⟨hs, Nat.one_le_of_lt hlt, hthresh, hlt⟩

end Sys2Proof.Machine
end

section
/-! Who writes the generator's registers (10_state.md R20, R21, R24). -/

namespace Sys2Proof.Machine

/-- Settles O30: of a step's cases for the CORE block, the frame of each command leaves SEED and NEXT as writers. -/
theorem writersOfGeneratorState : Obligations.WritersOfGeneratorState := by
  intro s t h
  cases step_core_cases h with
  | kept hkept => simp [hkept]
  | drew hb hdraw => simp [hdraw, hb]
  | @executed cmd rest i hin hb hd he =>
    obtain ⟨-, -, -, -, hinc, hstate, -⟩ := coreCommandFrame i _ t (decode_port hd) he
    have hop := decode_opcode hd
    by_cases hseed : ∃ seed sel, i = .seed seed sel
    · obtain ⟨seed, sel, rfl⟩ := hseed
      exact ⟨fun _ => .inl ⟨cmd, rest, hin, hop.symm, hb⟩, fun _ => .inl ⟨cmd, rest, hin, .inl hop.symm, hb⟩⟩
    · have hno : ∀ seed sel, i ≠ .seed seed sel := fun seed sel hi => hseed ⟨seed, sel, hi⟩
      refine ⟨fun hne => by simp [hinc hno] at hne, fun hne => ?_⟩
      by_cases hnext : i = .next
      · subst hnext
        exact .inl ⟨cmd, rest, hin, .inr hop.symm, hb⟩
      · exact absurd (hstate hno hnext) hne
  | reported hb herr => simp [herr]
  | @reset presented rest hin hreset =>
    exact ⟨fun _ => .inr ⟨presented, rest, hin⟩, fun _ => .inr (.inl ⟨presented, rest, hin⟩)⟩

end Sys2Proof.Machine
end

section
/-! The host's reads (20_memory.md R43, R46). -/

namespace Sys2Proof.Machine

/-- Settles O45, register by register: `step_read` is the whole step, and `readReg` is the register's current value by
definition (R46). The CORE block's port is always there, the wrapper's by hypothesis. -/
theorem readsHaveNoSideEffect : Obligations.ReadsHaveNoSideEffect := by
  refine ⟨fun s rest hin => ?res, fun s rest hin => ?status, fun s rest hp hin => ?dres, fun s rest hp hin => ?dstatus⟩
  case res => exact step_read hin (hasPort_core s)
  case status => exact step_read hin (hasPort_core s)
  case dres => exact step_read hin hp
  case dstatus => exact step_read hin hp

end Sys2Proof.Machine
end

section
/-! What decoding gives, said once for both ports (30_encoding.md R52 to R55): `decode_eq_ok_iff` for a command,
`decode_core_reserved_iff` and `decode_dual_reserved_iff` for a reserved opcode. -/

namespace Sys2Proof.Machine

variable {p : Port} {c : Command} {i : Instr}

/-- The command's operands are the values of the transaction's fields that the table of R52 names. -/
def OperandsIn (i : Instr) (c : Command) : Prop :=
  match i with
  | .seed seed sel => seed = c.a ∧ sel = c.b
  | .bounded bound => bound = boundedOperand c
  | .dseed seed1 seed2 sel1 sel2 => seed1 = c.a ∧ seed2 = c.b ∧ sel1 = c.c ∧ sel2 = c.d
  | .dbounded bound => bound = dboundedOperand c
  | .next => True
  | .footprint => True
  | .rdstate => True
  | .rdinc => True
  | .dnext => True
  | .dfootprint => True

/-- BOUNDED's operand as a number: `a[31:0]` (R52). -/
theorem boundedOperand_toNat (c : Command) : (boundedOperand c).toNat = c.a.toNat % 2 ^ 32 :=
  BitVec.toNat_setWidth 32 c.a

/-- A decoded command takes its operands from the transaction's fields (R52). -/
theorem operandsIn_of_decode (h : decode p c = .ok i) : OperandsIn i c := by
  cases p with
  | core =>
    simp only [decode, decodeCore] at h
    split_ifs at h <;> cases h <;> simp [OperandsIn, seedOperands]
  | dual =>
    simp only [decode, decodeDual] at h
    split_ifs at h <;> cases h <;> simp [OperandsIn, dseedOperands]

/-- A transaction with a command's opcode and its operands in their fields decodes to it on the port of its unit. -/
theorem decode_of_operandsIn (hop : i.opcode = c.op) (h : OperandsIn i c) : decode i.port c = .ok i := by
  cases i with
  | seed _ _ => obtain ⟨rfl, rfl⟩ := h; simp [decode, Instr.port, decodeCore, ← hop, Instr.opcode, seedOperands]
  | bounded _ => cases h; simp [decode, Instr.port, decodeCore, ← hop, Instr.opcode]
  | next | footprint | rdstate | rdinc => simp [decode, Instr.port, decodeCore, ← hop, Instr.opcode]
  | dseed _ _ _ _ =>
    obtain ⟨rfl, rfl, rfl, rfl⟩ := h
    simp [decode, Instr.port, decodeDual, ← hop, Instr.opcode, dseedOperands]
  | dbounded _ => cases h; simp [decode, Instr.port, decodeDual, ← hop, Instr.opcode]
  | dnext | dfootprint => simp [decode, Instr.port, decodeDual, ← hop, Instr.opcode]

/-- A transaction decodes to a command exactly when port, opcode and operand fields are the command's. -/
theorem decode_eq_ok_iff : decode p c = .ok i ↔ i.port = p ∧ i.opcode = c.op ∧ OperandsIn i c := by
  constructor
  · exact fun h => ⟨decode_port h, decode_opcode h, operandsIn_of_decode h⟩
  · rintro ⟨rfl, hop, hargs⟩
    exact decode_of_operandsIn hop hargs

/-- Decoding fails in one way only: the opcode is reserved on the port (R55, R56). -/
theorem decode_error {e : DecodeError} (h : decode p c = .error e) : e = .reserved p c.op := by
  cases p <;> simp only [decode, decodeCore, decodeDual] at h <;> split_ifs at h <;> cases h <;> rfl

/-- Every transaction decodes to a command or has a reserved opcode, and not both (R55). -/
theorem exists_decode_ok_iff : (∃ i, decode p c = .ok i) ↔ ¬decode p c = .error (.reserved p c.op) := by
  cases h : decode p c with
  | ok i => simp
  | error e => simp [decode_error h]

/-- The reserved opcodes of the CORE port (R53, R55). -/
theorem decode_core_reserved_iff :
    decode .core c = .error (.reserved .core c.op) ↔ c.op.toNat = 0 ∨ 7 ≤ c.op.toNat := by
  simp only [decode, decodeCore]
  split_ifs
  case neg => simp only [true_iff]; bv_omega
  all_goals simp [*]

/-- The reserved opcodes of the DUAL port (R54, R55). -/
theorem decode_dual_reserved_iff :
    decode .dual c = .error (.reserved .dual c.op) ↔ c.op.toNat < 0x11 ∨ 0x14 < c.op.toNat := by
  simp only [decode, decodeDual]
  split_ifs
  case neg => simp only [true_iff]; bv_omega
  all_goals simp [*]

/-- Settles O3, by `decode_eq_ok_iff` at the two transactions: they agree in what it asks of them. -/
theorem operandsComeFromTheirFields : Obligations.OperandsComeFromTheirFields := by
  intro p c i h
  obtain ⟨hport, hop, hargs⟩ := decode_eq_ok_iff.mp h
  refine ⟨hport, hop, ?operands, fun c' hop' hfields => decode_eq_ok_iff.mpr ⟨hport, hop.trans hop'.symm, ?same⟩⟩
  case operands =>
    cases i with
    | bounded bound => exact (congrArg BitVec.toNat hargs).trans (boundedOperand_toNat c)
    | _ => exact hargs
  case same =>
    cases i with
    | bounded bound =>
      have hbound : boundedOperand c' = boundedOperand c :=
        BitVec.eq_of_toNat_eq (by rw [boundedOperand_toNat, boundedOperand_toNat, hfields])
      exact hargs.trans hbound.symm
    | seed | dseed | dbounded => simpa [OperandsIn, dboundedOperand, hfields] using hargs
    | next | footprint | rdstate | rdinc | dnext | dfootprint => trivial

/-- Settles O4: the reserved opcodes by their ranges on each port, and a command for every other one. -/
theorem decodingIsTotal : Obligations.DecodingIsTotal := by
  intro c
  refine ⟨?core, decode_core_reserved_iff, ?dual, decode_dual_reserved_iff⟩
  case core => rw [exists_decode_ok_iff, decode_core_reserved_iff]; omega
  case dual => rw [exists_decode_ok_iff, decode_dual_reserved_iff]; omega

end Sys2Proof.Machine
end

section
/-! The encoder, its listing (30_encoding.md R58), and a transaction as one number (log 9). -/

namespace Sys2Proof.Machine

/-- Truncation undoes zero-extension (00_scope.md R10). -/
@[simp] theorem trunc32_zext64 (v : U32) : trunc32 (zext64 v) = v :=
  BitVec.setWidth_setWidth_of_le v (by decide)

/-- A transaction fits a listing when it has the listing's opcode and each value that the listing shows (R58). -/
theorem matches_iff {l : Listing} {c : Command} :
    l.matches c = true ↔ l.op = c.op ∧ (∀ v ∈ l.a, v = c.a) ∧ (∀ v ∈ l.b, v = c.b) ∧ (∀ v ∈ l.c, v = c.c) ∧
      ∀ v ∈ l.d, v = c.d := by
  simp [Listing.matches, Option.all_eq_true, and_assoc]

/-- A listing shows its command's opcode (R58). -/
@[simp] theorem listing_op (i : Instr) : i.listing.op = i.opcode := by
  cases i <;> rfl

/-- A transaction that fits a command's listing holds its operands in their fields (R52, R58). -/
theorem operandsIn_of_matches {i : Instr} {c : Command} (h : i.listing.matches c = true) : OperandsIn i c := by
  obtain ⟨-, ha, hb, hc, hd⟩ := matches_iff.mp h
  cases i with
  | seed seed sel => exact ⟨ha seed rfl, hb sel rfl⟩
  | bounded bound =>
    have hzext : zext64 bound = c.a := ha _ rfl
    simp [OperandsIn, boundedOperand, ← hzext]
  | dseed seed1 seed2 sel1 sel2 => exact ⟨ha seed1 rfl, hb seed2 rfl, hc sel1 rfl, hd sel2 rfl⟩
  | dbounded bound => exact ha bound rfl
  | next | footprint | rdstate | rdinc | dnext | dfootprint => trivial

/-- A transaction that fits a command's listing decodes to it, whatever the ignored fields hold (R52). -/
theorem decode_of_matches {i : Instr} {c : Command} (h : i.listing.matches c = true) : decode i.port c = .ok i :=
  decode_of_operandsIn ((listing_op i).symm.trans (matches_iff.mp h).1) (operandsIn_of_matches h)

/-- The encoder's transaction fits the listing (R58). -/
theorem matches_encode (i : Instr) : i.listing.matches (encode i) = true := by
  have hfield (o : Option U64) : ∀ v ∈ o, v = o.getD 0#64 := by rintro v rfl; rfl
  exact matches_iff.mpr ⟨rfl, hfield _, hfield _, hfield _, hfield _⟩

/-- Decoding the encoder's transaction gives the command. -/
theorem decode_encode (i : Instr) : decode i.port (encode i) = .ok i :=
  decode_of_matches (matches_encode i)

/-- The family of `Laws.OpcodeUnit` is about every command. -/
theorem opcodeUnit (i : Instr) : Laws.OpcodeUnit.Statement i := by
  cases i with
  | seed s q => exact Laws.OpcodeUnit.seed s q
  | next => exact Laws.OpcodeUnit.next
  | bounded b => exact Laws.OpcodeUnit.bounded b
  | footprint => exact Laws.OpcodeUnit.footprint
  | rdstate => exact Laws.OpcodeUnit.rdstate
  | rdinc => exact Laws.OpcodeUnit.rdinc
  | dseed s1 s2 q1 q2 => exact Laws.OpcodeUnit.dseed s1 s2 q1 q2
  | dnext => exact Laws.OpcodeUnit.dnext
  | dbounded b => exact Laws.OpcodeUnit.dbounded b
  | dfootprint => exact Laws.OpcodeUnit.dfootprint

/-- The unit of an encoded command tells its port (R51). -/
theorem tablePort_encode (i : Instr) : (encode i).tablePort = i.port := by
  obtain ⟨hunit, -⟩ := opcodeUnit i
  rw [Command.tablePort, hunit]
  cases i.port <;> rfl

/-- A transaction takes 264 bits as a number (log 9). -/
theorem bits_lt (c : Command) : c.bits < 2 ^ 264 := by
  have hop := c.op.isLt
  have ha := c.a.isLt
  have hb := c.b.isLt
  have hc := c.c.isLt
  have hd := c.d.isLt
  rw [Command.bits, show 264 = 8 + 256 from rfl, Nat.pow_add]
  omega

/-- The numbering of a transaction's bits loses nothing (log 9). -/
@[simp] theorem commandOfBits_bits (c : Command) : commandOfBits c.bits = c := by
  obtain ⟨op, a, b, c, d⟩ := c
  have hop := op.isLt
  have ha := a.isLt
  have hb := b.isLt
  have hc := c.isLt
  have hd := d.isLt
  simp only [commandOfBits, Command.bits, Command.mk.injEq]
  refine ⟨?_, ?_, ?_, ?_, ?_⟩ <;> apply BitVec.eq_of_toNat_eq <;> rw [BitVec.toNat_ofNat] <;> omega

/-- A whole transaction's number is read as that transaction (log 9). -/
@[simp] theorem tableCommand_bits (c : Command) : tableCommand 264 c.bits = c := by
  rw [tableCommand, Nat.mod_eq_of_lt (bits_lt c), commandOfBits_bits]

/-- A number is a command when its transaction decodes to it on the port of its unit (log 9). -/
theorem decodeTableWord_eq_some_iff {nbits w : Nat} {i : Instr} :
    decodeTableWord nbits w = some i ↔ decode (tableCommand nbits w).tablePort (tableCommand nbits w) = .ok i := by
  rw [decodeTableWord]
  cases decode (tableCommand nbits w).tablePort (tableCommand nbits w) <;> simp

/-- Settles O2: a fitting transaction by its fields, the encoder's own by its listing, and its number because the
numbering is read back. -/
theorem decodeInvertsEncode : Obligations.DecodeInvertsEncode := by
  refine fun i => ⟨fun c => decode_of_matches, matches_encode i, decodeTableWord_eq_some_iff.mpr ?_⟩
  rw [tableCommand_bits, tablePort_encode, decode_encode]

/-- Settles O1, by evaluation: the table's ten opcodes as numbers, then whole transactions on each port. -/
theorem specWordsDecode : Obligations.SpecWordsDecode := by
  unfold Obligations.SpecWordsDecode
  decide

end Sys2Proof.Machine
end

section
/-! The operands of an assembler's line (30_encoding.md R57). -/

namespace Sys2Proof.Machine

variable {port : Port} {line : AsmLine} {i : Instr}

/-- The literal is in the operand's range (R57). -/
@[simp] theorem fitsWidth_iff {width value : Nat} : fitsWidth width value = true ↔ value < 2 ^ width :=
  decide_eq_true_iff

/-- A line whose operands fit assembles to its command's transaction. -/
theorem assemble_command (hw : line.wellFormed = true) (hc : lineCommand line = some i) :
    assemble port line = .ok [.command port (encode i)] := by
  simp [assemble, hw, hc]

/-- A line with an operand that does not fit is an error (R57). -/
theorem assemble_tooWide (hw : ¬line.wellFormed = true) : assemble port line = .error .operandTooWide := by
  simp [assemble, hw]

/-- SEED's operands fit (R57). -/
theorem wellFormed_seed_iff {s q : Nat} : (AsmLine.seed s q).wellFormed = true ↔ s < 2 ^ 64 ∧ q < 2 ^ 64 := by
  rw [AsmLine.wellFormed, Bool.and_eq_true, fitsWidth_iff, fitsWidth_iff]

/-- DSEED's operands fit (R57). -/
theorem wellFormed_dseed_iff {s1 s2 q1 q2 : Nat} :
    (AsmLine.dseed s1 s2 q1 q2).wellFormed = true ↔ s1 < 2 ^ 64 ∧ s2 < 2 ^ 64 ∧ q1 < 2 ^ 64 ∧ q2 < 2 ^ 64 := by
  simp only [AsmLine.wellFormed, Bool.and_eq_true, fitsWidth_iff, and_assoc]

/-- Settles O53: a fitting line assembles to the encoder's transaction, which decodes to the line's command, and an
operand that fits is its own value in the command. -/
theorem listingOperandsFit : Obligations.ListingOperandsFit := by
  refine ⟨fun s q => ⟨?seed, fun h => ?seedWide⟩, fun b => ⟨fun hb => ?bounded, fun h => ?boundedWide⟩,
    fun s1 s2 q1 q2 => ⟨?dseed, fun h => ?dseedWide⟩, fun b => ⟨fun hb => ?dbounded, fun h => ?dboundedWide⟩⟩
  case seed =>
    rintro ⟨hs, hq⟩
    exact ⟨_, _, _, assemble_command (wellFormed_seed_iff.mpr ⟨hs, hq⟩) rfl, decode_encode (.seed _ _),
      Nat.mod_eq_of_lt hs, Nat.mod_eq_of_lt hq⟩
  case seedWide => exact assemble_tooWide (wellFormed_seed_iff.not.mpr h)
  case bounded =>
    exact ⟨_, _, assemble_command (fitsWidth_iff.mpr hb) rfl, decode_encode (.bounded _), Nat.mod_eq_of_lt hb⟩
  case boundedWide => exact assemble_tooWide (fitsWidth_iff.not.mpr h.not_gt)
  case dseed =>
    rintro ⟨hs1, hs2, hq1, hq2⟩
    exact ⟨_, _, _, _, _, assemble_command (wellFormed_dseed_iff.mpr ⟨hs1, hs2, hq1, hq2⟩) rfl,
      decode_encode (.dseed _ _ _ _), Nat.mod_eq_of_lt hs1, Nat.mod_eq_of_lt hs2,
      Nat.mod_eq_of_lt hq1, Nat.mod_eq_of_lt hq2⟩
  case dseedWide => exact assemble_tooWide (wellFormed_dseed_iff.not.mpr h)
  case dbounded =>
    exact ⟨_, _, assemble_command (fitsWidth_iff.mpr hb) rfl, decode_encode (.dbounded _), Nat.mod_eq_of_lt hb⟩
  case dboundedWide => exact assemble_tooWide (fitsWidth_iff.not.mpr h.not_gt)

end Sys2Proof.Machine
end

section
/-! The step that takes a presented command (30_encoding.md R50, R55, R56). -/

namespace Sys2Proof.Machine

variable {s : State}

/-- A well-formed command is one whose port the machine has (R6, R54). -/
theorem wellFormed_eq_hasPort (i : Instr) : i.wellFormed s.dualPresent = s.hasPort i.port := by
  unfold Instr.wellFormed
  cases i.port <;> rfl

/-- The step that takes a command is its `exec`. -/
theorem step_command_ok {port : Port} {cmd : Command} {rest : List HostInput} {i : Instr}
    (h : s.inputs = .command port cmd :: rest) (hp : s.hasPort port = true) (hb : s.busyOn port = false)
    (hd : decode port cmd = .ok i) : step s = exec i { s with inputs := rest } := by
  rw [step_command_taken h hp hb, acceptCommand_ok hd]

/-- The step that takes a reserved opcode is its report (R56, R151). -/
theorem step_command_reserved {port : Port} {cmd : Command} {rest : List HostInput} {e : DecodeError}
    (h : s.inputs = .command port cmd :: rest) (hp : s.hasPort port = true) (hb : s.busyOn port = false)
    (hd : decode port cmd = .error e) : step s = .next (fail port .illegalOp { s with inputs := rest }) := by
  rw [step_command_taken h hp hb, acceptCommand_error hd]

/-- Counting below `k + m` what holds from `k` on is counting below `k` and adding `m`. -/
theorem length_filter_range_add (k m : Nat) {q : Nat → Bool} (hq : ∀ n, k ≤ n → q n = true) :
    ((List.range (k + m)).filter q).length = ((List.range k).filter q).length + m := by
  have hall : ∀ n ∈ (List.range m).map (k + ·), q n = true := by
    simpa using fun n _ => hq (k + n) (Nat.le_add_right k n)
  simp [List.range_add, List.filter_eq_self.mpr hall]

/-- Settles O5: the reserved opcodes of each port by their range, the report by `step_command_reserved`; every value
from 7 is reserved on the CORE port and every one from 0x15 on the DUAL port, so those below are left to count. -/
theorem reservedOpcodeReports : Obligations.ReservedOpcodeReports := by
  refine ⟨fun s c rest h hb hop => ?core, fun s c rest h hp hb hop => ?dual, ?coreCount, ?dualCount⟩
  case core => exact step_command_reserved h (hasPort_core s) hb (decode_core_reserved_iff.mpr hop)
  case dual => exact step_command_reserved h hp hb (decode_dual_reserved_iff.mpr hop)
  case coreCount => exact length_filter_range_add 7 249 fun n hn => decide_eq_true (.inr hn)
  case dualCount => exact length_filter_range_add 0x15 235 fun n hn => decide_eq_true (.inr hn)

/-- Settles O51, as a well-formed command's port is there. -/
theorem stepRunsDecodedCommand : Obligations.StepRunsDecodedCommand := by
  intro s p c rest i h hd hw hb
  rw [wellFormed_eq_hasPort, decode_port hd] at hw
  exact step_command_ok h hw hb hd

/-- A presented command that decodes is run by the next step, in the state it was presented to with its port ready. -/
theorem step_presentNext {port : Port} {cmd : Command} {i : Instr} (hd : decode port cmd = .ok i) :
    step (presentNext port cmd s) = exec i (readyPort port s) := by
  have hp : (presentNext port cmd s).hasPort port = true := by cases port <;> rfl
  have hb : (presentNext port cmd s).busyOn port = false := by cases port <;> rfl
  have hused : { presentNext port cmd s with inputs := s.inputs } = readyPort port s := by cases port <;> rfl
  rw [step_command_ok (presentNext_inputs s port cmd) hp hb hd, hused]

/-- Settles O52, by `step_presentNext` on the port that the word's unit tells. -/
theorem placedWordRunsNext : Obligations.PlacedWordRunsNext := by
  intro s nbits w i h
  have hd := decodeTableWord_eq_some_iff.mp h
  rw [decode_port hd]
  exact step_presentNext hd

end Sys2Proof.Machine
end

section
/-! The seeding function as arithmetic modulo 2^64 (40_seed.md R70 to R76). -/

namespace Sys2Proof.Machine

/-- The increment is twice the selector plus 1, modulo 2^64: the low bit is free after the shift (R70). -/
theorem incrementOf_eq_ofNat (sel : U64) : incrementOf sel = BitVec.ofNat 64 (2 * sel.toNat + 1) := by
  have hfree : sel <<< 1 &&& 1#64 = 0#64 := by
    apply BitVec.eq_of_getLsbD_eq
    intro j _
    cases j <;> simp
  rw [incrementOf, ← BitVec.add_eq_or_of_and_eq_zero _ _ hfree]
  apply BitVec.eq_of_toNat_eq
  simp [Nat.shiftLeft_eq, Nat.mul_comm]

/-- The increment as a number (R70). -/
theorem incrementOf_toNat (sel : U64) : (incrementOf sel).toNat = (2 * sel.toNat + 1) % 2 ^ 64 := by
  rw [incrementOf_eq_ofNat, BitVec.toNat_ofNat]

/-- Two selectors give one increment exactly when their bits 62:0 agree (R74). -/
theorem incrementOf_eq_iff {sel sel' : U64} :
    incrementOf sel = incrementOf sel' ↔ sel.toNat % 2 ^ 63 = sel'.toNat % 2 ^ 63 := by
  rw [← BitVec.toNat_inj, incrementOf_toNat, incrementOf_toNat]
  omega

/-- The bootstrap from state 0 is one step from the sum of increment and seed (R70, R72). -/
theorem bootstrap_eq_lcgStep (seed inc : U64) : bootstrap seed inc = lcgStep (inc + seed) inc := by
  rw [bootstrap, lcgStep_zero]

/-- The bootstrap's closed form on numbers (R70). -/
theorem bootstrap_eq_ofNat (seed inc : U64) :
    bootstrap seed inc =
      BitVec.ofNat 64 (Config.multiplier.toNat * (inc.toNat + seed.toNat) + inc.toNat) := by
  apply BitVec.eq_of_toNat_eq
  rw [bootstrap_eq_lcgStep, lcgStep_toNat, BitVec.toNat_add, BitVec.toNat_ofNat]
  exact ((Nat.mod_modEq _ _).mul_left _).add_right _

/-- Settles O15: SEED's effect is `execSeed`'s definition, its two values are the closed forms above. -/
theorem seedCompletes : Obligations.SeedCompletes := by
  refine ⟨fun s seed sel => ?closedForm, fun s t seed sel h => ?odd, fun s t h => ?sample⟩
  case closedForm =>
    rw [← incrementOf_toNat, ← incrementOf_eq_ofNat, exec, execSeed, seedFn, bootstrap_eq_ofNat]
    rfl
  case odd =>
    cases h
    exact incrementOf_odd sel
  case sample =>
    cases h
    have hvalue : seedFn 42#64 54#64 = (0x185706B82C2E03F8#64, 0x6D#64) := by decide
    simp [hvalue]

/-- Settles O16: `SeedFn` reads the selector through the increment only, and flipping bit 63 keeps bits 62:0. -/
theorem selectorTopBitIsIgnored : Obligations.SelectorTopBitIsIgnored := by
  refine ⟨fun seed sel => ?_, fun seed sel sel' => incrementOf_eq_iff⟩
  have hlow : sel.toNat % 2 ^ 63 = (sel ^^^ 0x8000000000000000#64).toNat % 2 ^ 63 := by
    rw [BitVec.toNat_xor, Nat.xor_mod_two_pow]
    simp
  rw [seedFn, seedFn, incrementOf_eq_iff.mpr hlow]

/-- Over a commutative ring, `m * (c + x) + c` vanishes for one `x` only, given by the inverse of `m`. -/
theorem mul_add_add_eq_zero_iff {R : Type*} [CommRing R] {m m' : R} (h : m' * m = 1) (c x : R) :
    m * (c + x) + c = 0 ↔ x = (0 - c) * m' - c := by
  constructor
  · intro hzero
    linear_combination m' * hzero - (c + x) * h
  · intro hx
    linear_combination m * hx - c * h

/-- The inverse of the multiplier modulo 2^64 (R76). -/
theorem inverse_mul_multiplier : 0xC097EF87329E28A5#64 * Config.multiplier = 1#64 := by decide

/-- The one seed that bootstraps a given increment to state 0 (R76). -/
theorem bootstrap_eq_zero_iff (seed inc : U64) :
    bootstrap seed inc = 0#64 ↔ seed = (0#64 - inc) * 0xC097EF87329E28A5#64 - inc := by
  rw [bootstrap_eq_lcgStep]
  exact mul_add_add_eq_zero_iff inverse_mul_multiplier inc seed

/-- Settles O17, by `bootstrap_eq_zero_iff`: its right side does not depend on the seed, and for selector 0 it is the
seed that the rule names. -/
theorem oneSeedGivesStateZero : Obligations.OneSeedGivesStateZero := by
  refine ⟨inverse_mul_multiplier, fun seed sel => bootstrap_eq_zero_iff seed _, fun sel => ?unique,
    fun s seed => ?selectorZero⟩
  case unique => exact ⟨_, (bootstrap_eq_zero_iff _ _).mpr rfl, fun _ => (bootstrap_eq_zero_iff _ _).mp⟩
  case selectorZero =>
    have hvalue : (0#64 - incrementOf 0#64) * 0xC097EF87329E28A5#64 - incrementOf 0#64 = 0x3F681078CD61D75A#64 := by
      decide
    rw [← hvalue, ← bootstrap_eq_zero_iff]
    constructor
    · rintro ⟨t, h, hzero, -⟩
      cases h
      exact hzero
    · exact fun hzero => ⟨_, rfl, hzero, rfl⟩

end Sys2Proof.Machine
end

section
/-! Two CORE blocks that agree in all that a generator shows, and what keeps the agreement (40_seed.md R78). -/

namespace Sys2Proof.Machine

/-- Two CORE blocks agree in `STATE`, `INC`, `SEEDED`, `BUSY` and `ERR`, in the hidden bound and threshold while they draw
with them, and in `RES` unless each still holds its value from before, `old` and `old'`. -/
structure CoreAgree (old old' : U64) (r r' : CoreRegs) : Prop where
  state : r.state = r'.state
  inc : r.inc = r'.inc
  seeded : r.seeded = r'.seeded
  busy : r.busy = r'.busy
  err : r.err = r'.err
  pending : r.busy = true → r.pbound = r'.pbound ∧ r.pthresh = r'.pthresh
  res : r.res = r'.res ∨ r.res = old ∧ r'.res = old'

/-- Two machines whose CORE blocks agree and whose hosts have the same moves left, all for the CORE block. -/
structure Agree (old old' : U64) (s s' : State) : Prop where
  core : CoreAgree old old' s.core s'.core
  inputs : s.inputs = s'.inputs
  corePort : ∀ m ∈ s.inputs, m.port = .core

/-- Both outcomes are next states, and these agree. -/
def BothAgree (old old' : U64) (o o' : Result) : Prop :=
  ∃ t t', o = .next t ∧ o' = .next t' ∧ Agree old old' t t'

section

variable {old old' : U64} {r r' : CoreRegs} {s s' : State}

/-- Blocks with the same registers agree. -/
theorem CoreAgree.refl (r : CoreRegs) : CoreAgree old old' r r :=
  ⟨rfl, rfl, rfl, rfl, rfl, fun _ => ⟨rfl, rfl⟩, .inl rfl⟩

/-- An error report on both sides keeps the agreement (R150). -/
theorem CoreAgree.report (h : CoreAgree old old' r r') (e : ErrCode) :
    CoreAgree old old' { r with err := e } { r' with err := e } :=
  { h with err := rfl }

/-- The same draw on both sides keeps the agreement: it reads `STATE`, `INC` and the pending bound only (R105). -/
theorem CoreAgree.draw (h : CoreAgree old old' r r') (hb : r.busy = true) :
    CoreAgree old old' (drawCore r) (drawCore r') := by
  obtain ⟨hbound, hthresh⟩ := h.pending hb
  cases ha : accept (perm r.state) r.pthresh with
  | true =>
    rw [drawCore_accepted ha, drawCore_accepted (by rwa [← h.state, ← hthresh]), ← h.state, ← h.inc, ← hbound]
    exact { h with state := rfl, inc := rfl, busy := rfl, pending := nofun, res := .inl rfl }
  | false =>
    rw [drawCore_rejected ha, drawCore_rejected (by rwa [← h.state, ← hthresh]), ← h.state, ← h.inc]
    exact { h with state := rfl, inc := rfl }

/-- SEED writes both generators alike and keeps the rest (R71). -/
theorem CoreAgree.seed (h : CoreAgree old old' r r') (state inc : U64) :
    CoreAgree old old' { r with state := state, inc := inc, seeded := true, err := .ok }
      { r' with state := state, inc := inc, seeded := true, err := .ok } :=
  { h with state := rfl, inc := rfl, seeded := rfl, err := rfl }

/-- The same answer on both sides keeps the agreement (R120). -/
theorem CoreAgree.answer (h : CoreAgree old old' r r') {v v' : U64} (hv : v = v') :
    CoreAgree old old' { r with res := v, err := .ok } { r' with res := v', err := .ok } :=
  { h with err := rfl, res := .inl hv }

/-- One generation step on both sides keeps the agreement (R84). -/
theorem CoreAgree.next (h : CoreAgree old old' r r') :
    CoreAgree old old' { r with state := lcgStep r.state r.inc, res := zext64 (perm r.state), err := .ok }
      { r' with state := lcgStep r'.state r'.inc, res := zext64 (perm r'.state), err := .ok } := by
  rw [← h.state, ← h.inc]
  exact { h with state := rfl, inc := rfl, err := rfl, res := .inl rfl }

/-- The acceptance of the same bound makes the pending bounds agree (R104). -/
theorem CoreAgree.began (h : CoreAgree old old' r r') (bound : U32) :
    CoreAgree old old' { r with pbound := bound, pthresh := thresh bound, busy := true, err := .ok }
      { r' with pbound := bound, pthresh := thresh bound, busy := true, err := .ok } :=
  { h with busy := rfl, err := rfl, pending := fun _ => ⟨rfl, rfl⟩ }

/-- Updates of the two CORE blocks that agree make agreeing outcomes. -/
theorem Agree.mapCore_agree (h : Agree old old' s s') {f f' : CoreRegs → CoreRegs}
    (hf : CoreAgree old old' (f s.core) (f' s'.core)) :
    BothAgree old old' (.next (s.mapCore f)) (.next (s'.mapCore f')) :=
  ⟨_, _, rfl, rfl, hf, h.inputs, h.corePort⟩

/-- A CORE command keeps the agreement, command by command. -/
theorem Agree.exec_agree (h : Agree old old' s s') {i : Instr} (hi : i.port = .core) :
    BothAgree old old' (exec i s) (exec i s') := by
  cases i with
  | seed seed sel => exact h.mapCore_agree (h.core.seed _ _)
  | next =>
    cases hs : s.core.seeded with
    | true =>
      rw [exec, exec, execNext_seeded hs, execNext_seeded (h.core.seeded ▸ hs)]
      exact h.mapCore_agree h.core.next
    | false =>
      rw [exec, exec, execNext_unseeded hs, execNext_unseeded (h.core.seeded ▸ hs)]
      exact h.mapCore_agree (h.core.report _)
  | bounded bound =>
    rw [exec, exec]
    cases hs : s.core.seeded with
    | false =>
      rw [execBounded_unseeded bound hs, execBounded_unseeded bound (h.core.seeded ▸ hs)]
      exact h.mapCore_agree (h.core.report _)
    | true =>
      by_cases hb : bound = 0#32
      · rw [hb, execBounded_zero hs, execBounded_zero (h.core.seeded ▸ hs)]
        exact h.mapCore_agree (h.core.report _)
      · rw [execBounded_accepted hs hb, execBounded_accepted (h.core.seeded ▸ hs) hb]
        exact h.mapCore_agree (h.core.began bound)
  | footprint => exact h.mapCore_agree (h.core.answer rfl)
  | rdstate => exact h.mapCore_agree (h.core.answer h.core.state)
  | rdinc => exact h.mapCore_agree (h.core.answer h.core.inc)
  | dseed _ _ _ _ => cases hi
  | dnext => cases hi
  | dbounded _ => cases hi
  | dfootprint => cases hi

/-- The CORE blocks' own transitions keep the agreement: both draw or both wait (R105, R165). -/
theorem CoreAgree.own (h : CoreAgree old old' s.core s'.core) :
    CoreAgree old old' (ownTransition .core s).core (ownTransition .core s').core := by
  rw [ownTransition_core_core, ownTransition_core_core, ← h.busy]
  split
  · exact h.draw ‹_›
  · exact h

/-- No own transition moves the host on. -/
@[simp] theorem ownTransition_inputs (port : Port) (s : State) : (ownTransition port s).inputs = s.inputs := by
  cases port <;> rw [ownTransition, apply_ite State.inputs] <;> simp

/-- No free run moves the host on. -/
@[simp] theorem freeRun_inputs (s : State) : (freeRun s).inputs = s.inputs := by
  simp [freeRun, apply_ite State.inputs]

/-- The CORE blocks' own transitions make agreeing outcomes. -/
theorem Agree.own_agree (h : Agree old old' s s') :
    BothAgree old old' (.next (ownTransition .core s)) (.next (ownTransition .core s')) :=
  ⟨_, _, rfl, rfl, h.core.own, by simpa using h.inputs, by simpa using h.corePort⟩

/-- The host's next move used up on both sides keeps the agreement. -/
theorem Agree.consume (h : Agree old old' s s') {m : HostInput} {rest : List HostInput} (hin : s.inputs = m :: rest) :
    Agree old old' { s with inputs := rest } { s' with inputs := rest } :=
  ⟨h.core, rfl, fun m' hm' => h.corePort m' (by rw [hin]; exact List.mem_cons_of_mem m hm')⟩

/-- The acceptance of the same command on the CORE port keeps the agreement, whether it is a command or reserved
(R55, R56). -/
theorem Agree.acceptCommand_agree (h : Agree old old' s s') (cmd : Command) :
    BothAgree old old' (acceptCommand .core cmd s) (acceptCommand .core cmd s') := by
  cases hd : decode .core cmd with
  | ok i =>
    rw [acceptCommand_ok hd, acceptCommand_ok hd]
    exact h.exec_agree (decode_port hd)
  | error e =>
    rw [acceptCommand_error hd, acceptCommand_error hd, fail_core, fail_core]
    exact h.mapCore_agree (h.core.report _)

/-- A step keeps the agreement, by the host's next move. -/
theorem Agree.step_agree (h : Agree old old' s s') : BothAgree old old' (step s) (step s') := by
  match hin : s.inputs with
  | [] =>
    rw [step_nil hin, step_nil (h.inputs ▸ hin)]
    refine ⟨_, _, rfl, rfl, ?_, by simpa using h.inputs, by simp [hin]⟩
    rw [freeRun_core, freeRun_core]
    exact h.core.own
  | move :: rest =>
    have hin' : s'.inputs = move :: rest := h.inputs ▸ hin
    have hport : move.port = .core := h.corePort move (by simp [hin])
    have hnext := h.consume hin
    have hbusy : s'.busyOn .core = s.core.busy := h.core.busy.symm
    cases move with
    | command port cmd =>
      obtain rfl : port = .core := hport
      cases hb : s.core.busy with
      | true =>
        rw [step_command_held hin rfl hb, step_command_held hin' rfl (hbusy.trans hb)]
        exact h.own_agree
      | false =>
        rw [step_command_taken hin rfl hb, step_command_taken hin' rfl (hbusy.trans hb)]
        exact hnext.acceptCommand_agree cmd
    | reset port presented =>
      obtain rfl : port = .core := hport
      rw [step_reset hin rfl, step_reset hin' rfl]
      exact ⟨_, _, rfl, rfl, .refl coreReset, rfl, hnext.corePort⟩
    | read reg =>
      have hreg : reg.port = .core := hport
      have hhas (u : State) : u.hasPort reg.port = true := by rw [hreg, hasPort_core]
      rw [step_read hin (hhas s), step_read hin' (hhas s')]
      exact ⟨_, _, rfl, rfl, h.core, rfl, hnext.corePort⟩
    | pass port =>
      obtain rfl : port = .core := hport
      rw [step_pass hin rfl, step_pass hin' rfl]
      exact hnext.own_agree

/-- Any number of steps keeps the agreement. -/
theorem Agree.runSteps_agree (h : Agree old old' s s') (k : Nat) : BothAgree old old' (runSteps k s) (runSteps k s') := by
  induction k generalizing s s' with
  | zero => exact ⟨s, s', rfl, rfl, h⟩
  | succ k ih =>
    obtain ⟨t, t', ht, ht', hagree⟩ := h.step_agree
    rw [runSteps_succ_of_next ht, runSteps_succ_of_next ht']
    exact ih hagree

/-- SEED makes any two idle blocks agree, with what each had in `RES` as the old values (R71, R78). -/
theorem coreAgree_seeded (hb : r.busy = false) (hb' : r'.busy = false) (state inc : U64) :
    CoreAgree r.res r'.res { r with state := state, inc := inc, seeded := true, err := .ok }
      { r' with state := state, inc := inc, seeded := true, err := .ok } where
  state := rfl
  inc := rfl
  seeded := rfl
  busy := hb.trans hb'.symm
  err := rfl
  pending hbusy := absurd hb (by simp [show r.busy = true from hbusy])
  res := .inr ⟨rfl, rfl⟩

/-- The same SEED leaves two machines with idle CORE blocks and the same coming CORE moves in agreement (R71, R78). -/
theorem exec_seed_agree {rest : List HostInput} (hb : s.core.busy = false) (hb' : s'.core.busy = false)
    (hport : ∀ m ∈ rest, m.port = .core) (seed sel : U64) :
    BothAgree s.core.res s'.core.res (exec (.seed seed sel) { s with inputs := rest })
      (exec (.seed seed sel) { s' with inputs := rest }) :=
  ⟨_, _, rfl, rfl, coreAgree_seeded hb hb' _ _, rfl, hport⟩

end

/-- The opcode of SEED decodes to SEED of the first two operand fields (R52, R53). -/
theorem decode_seed (seed sel c d : U64) : decode .core ⟨0x01#8, seed, sel, c, d⟩ = .ok (.seed seed sel) :=
  decode_eq_ok_iff.mpr ⟨rfl, rfl, rfl, rfl⟩

/-- Settles O18: the step that takes SEED makes the machines agree, and every later step keeps the agreement. -/
theorem seedForgetsHistory : Obligations.SeedForgetsHistory := by
  intro s s' seed sel c d c' d' rest k hb hb' hport hin hin'
  obtain ⟨u, u', hu, hu', hagree⟩ := exec_seed_agree hb hb' hport seed sel
  rw [← step_command_ok hin rfl hb (decode_seed seed sel c d)] at hu
  rw [← step_command_ok hin' rfl hb' (decode_seed seed sel c' d')] at hu'
  obtain ⟨t, t', ht, ht', hcore, hinputs, -⟩ := hagree.runSteps_agree k
  exact ⟨t, t', (runSteps_succ_of_next hu).trans ht, (runSteps_succ_of_next hu').trans ht',
    hcore.state, hcore.inc, hcore.seeded, hcore.busy, hcore.err, hinputs, hcore.res⟩

end Sys2Proof.Machine
end

section
/-! The stepper's sequence as arithmetic modulo 2^64, and its period (41_next.md R80, R89, R91). -/

namespace Sys2Proof.Machine

/-- Settles O11, by `lcgStep_toNat`, with the multiplier in decimal. -/
theorem lcgStepIsModular : Obligations.LcgStepIsModular := lcgStep_toNat

/-- Settles O20, by induction on the number of steps; the geometric sum takes its next term by `geom_sum_succ`. -/
theorem jumpAhead : Obligations.JumpAhead := by
  intro s inc k
  induction k with
  | zero => simp [stateAfter, Nat.mod_eq_of_lt s.isLt]
  | succ k ih =>
    rw [stateAfter, lcgStepIsModular, ih, geom_sum_succ]
    refine (((Nat.mod_modEq _ _).mul_left _).add_right _).trans (congrArg (· % 2 ^ 64) ?_)
    ring

/-- A geometric sum with a ratio of 1 modulo 4 holds as many factors 2 as its length. -/
theorem emultiplicity_two_geom_sum {m : ℤ} (hm : 4 ∣ m - 1) (hne : m ≠ 1) (n : ℕ) :
    emultiplicity 2 (∑ i ∈ Finset.range n, m ^ i) = emultiplicity 2 (n : ℤ) := by
  have hsum := Int.two_pow_sub_pow' n hm (by omega)
  rw [one_pow, ← mul_geom_sum, emultiplicity_mul Int.prime_two] at hsum
  have hfin : FiniteMultiplicity 2 (m - 1) := Int.finiteMultiplicity_iff.mpr ⟨by decide, sub_ne_zero.mpr hne⟩
  exact ENat.add_right_injective_of_ne_top (finiteMultiplicity_iff_emultiplicity_ne_top.mp hfin) hsum

/-- A power of 2 divides the geometric sum of the multiplier exactly when it divides the sum's length. -/
theorem two_pow_dvd_geom_sum_multiplier_iff (k n : ℕ) :
    2 ^ k ∣ ∑ i ∈ Finset.range n, 6364136223846793005 ^ i ↔ 2 ^ k ∣ n := by
  have hsum := emultiplicity_two_geom_sum (m := 6364136223846793005) (by decide) (by decide) n
  rw [← Int.natCast_dvd_natCast, ← Int.natCast_dvd_natCast (n := n)]
  push_cast
  rw [pow_dvd_iff_le_emultiplicity, pow_dvd_iff_le_emultiplicity, hsum]

/-- Steps after steps: the sequence goes on from the state it has reached. -/
theorem stateAfter_add (s inc : U64) (j k : ℕ) :
    stateAfter s inc (j + k) = stateAfter (stateAfter s inc j) inc k := by
  induction k with
  | zero => rfl
  | succ k ih => rw [← Nat.add_assoc, stateAfter, ih, stateAfter]

/-- With an odd increment the sequence is back at a state exactly after multiples of 2^64 steps (R89): the distance is
the geometric sum times an odd number. -/
theorem stateAfter_eq_self_iff {inc : U64} (hodd : inc.getLsbD 0 = true) (s : U64) (n : ℕ) :
    stateAfter s inc n = s ↔ 2 ^ 64 ∣ n := by
  have hinc : inc.toNat % 2 = 1 := by simpa [BitVec.getLsbD, Nat.testBit_zero] using hodd
  have hcoprime : Nat.Coprime (2 ^ 64) (6364136223846793004 * s.toNat + inc.toNat) :=
    Nat.Coprime.pow_left _ (Nat.coprime_two_left.mpr (Nat.odd_iff.mpr (by omega)))
  have hdistance : 6364136223846793005 ^ n * s.toNat +
        inc.toNat * ∑ i ∈ Finset.range n, 6364136223846793005 ^ i =
      (∑ i ∈ Finset.range n, 6364136223846793005 ^ i) * (6364136223846793004 * s.toNat + inc.toNat) + s.toNat := by
    have hpow : (∑ i ∈ Finset.range n, 6364136223846793005 ^ i) * 6364136223846793004 + 1 = 6364136223846793005 ^ n :=
      geom_sum_mul_add 6364136223846793004 n
    rw [← hpow]
    ring
  rw [← two_pow_dvd_geom_sum_multiplier_iff, ← hcoprime.dvd_mul_right, ← Nat.add_modEq_right_iff (b := s.toNat),
    ← hdistance, Nat.ModEq, ← jumpAhead, Nat.mod_eq_of_lt s.isLt, BitVec.toNat_inj]

/-- With an odd increment the first 2^64 states of the sequence are different (R89). -/
theorem stateAfter_injOn {inc : U64} (hodd : inc.getLsbD 0 = true) (s : U64) :
    Set.InjOn (stateAfter s inc) (Set.Iio (2 ^ 64)) := by
  intro i hi j hj h
  wlog hij : i ≤ j generalizing i j
  · exact (this hj hi h.symm (by omega)).symm
  obtain ⟨d, rfl⟩ := Nat.exists_eq_add_of_le hij
  rw [stateAfter_add] at h
  have hdvd := (stateAfter_eq_self_iff hodd _ d).mp h.symm
  rw [Set.mem_Iio] at hj
  omega

/-- With an odd increment the first 2^64 states of the sequence are all states (R89): that many different ones. -/
theorem exists_stateAfter_eq {inc : U64} (hodd : inc.getLsbD 0 = true) (s y : U64) :
    ∃ k < 2 ^ 64, stateAfter s inc k = y := by
  have hinj : Function.Injective fun k : Fin (2 ^ 64) => (stateAfter s inc k).toFin := fun i j h =>
    Fin.ext (stateAfter_injOn hodd s i.isLt j.isLt (BitVec.toFin_inj.mp h))
  obtain ⟨k, hk⟩ := Finite.surjective_of_injective hinj y.toFin
  exact ⟨k, k.isLt, BitVec.toFin_inj.mp hk⟩

/-- Settles O21, from the return at multiples of 2^64 and the count of states before it. -/
theorem fullPeriod : Obligations.FullPeriod :=
  ⟨fun s _ hodd => ⟨exists_stateAfter_eq hodd s, stateAfter_eq_self_iff hodd s⟩, lcgStep_zero 0#64⟩

end Sys2Proof.Machine
end

section
/-! The permuter bit by bit and as a rotation (41_next.md R81 to R83). -/

namespace Sys2Proof.Machine

/-- Bit `j` of the xorshift; `old` has no bit from 64 on (R82). -/
theorem xorshifted_getLsbD (old : U64) {j : ℕ} (hj : j < 32) :
    (xorshifted old).getLsbD j = (old.getLsbD (j + 27) ^^ old.getLsbD (j + 45)) := by
  simp only [xorshifted, trunc32, Config.xsShift, Config.outShift, BitVec.getLsbD_setWidth, BitVec.getLsbD_ushiftRight,
    BitVec.getLsbD_xor, hj, decide_true, Bool.true_and]
  rw [Bool.xor_comm, Nat.add_comm 27 j, ← Nat.add_assoc, Nat.add_comm 18 j, Nat.add_assoc j 18 27]

/-- The rotation amount is the number in the top five bits (R82). -/
theorem rotAmount_toNat (old : U64) : (rotAmount old).toNat = old.toNat / 2 ^ 59 := by
  rw [rotAmount, trunc32, BitVec.toNat_setWidth, BitVec.toNat_ushiftRight, Nat.shiftRight_eq_div_pow, Config.rotShift]
  omega

/-- The rotation amount is below 32 (R81). -/
theorem rotAmount_lt (old : U64) : (rotAmount old).toNat < 32 := by
  rw [rotAmount_toNat]
  omega

/-- The left shift's distance in `rotr32` (R81). -/
theorem leftDistance_toNat {r : U32} (hr : r.toNat < 32) : ((32#32 - r) &&& 31#32).toNat = (32 - r.toNat) % 32 := by
  have hdiff : (32#32 - r).toNat = 32 - r.toNat := by bv_omega
  rw [BitVec.toNat_and, hdiff]
  exact Nat.and_two_pow_sub_one_eq_mod _ 5

/-- The two shifts and the OR are a right rotation; by 0 both shifts keep the value (R83). -/
theorem rotr32_eq_rotateRight (x : U32) {r : U32} (hr : r.toNat < 32) : rotr32 x r = x.rotateRight r.toNat := by
  rw [rotr32, BitVec.rotateRight_def, BitVec.ushiftRight_eq', BitVec.shiftLeft_eq', leftDistance_toNat hr,
    Nat.mod_eq_of_lt hr]
  by_cases hzero : r.toNat = 0
  · simp [hzero]
  · rw [Nat.mod_eq_of_lt (by omega)]

/-- `Perm` is the xorshift rotated right by the top five bits (R83). -/
theorem perm_eq_rotateRight (old : U64) : perm old = (xorshifted old).rotateRight (old.toNat / 2 ^ 59) := by
  rw [perm, rotr32_eq_rotateRight _ (rotAmount_lt old), rotAmount_toNat]

/-- Bit `j` of a right rotation of a 32-bit value (R82). -/
theorem rotateRight_getLsbD (x : U32) {r j : ℕ} (hr : r < 32) (hj : j < 32) :
    (x.rotateRight r).getLsbD j = x.getLsbD ((j + r) % 32) := by
  rw [BitVec.getLsbD_rotateRight_of_lt hr]
  by_cases hlow : j < 32 - r
  · rw [decide_eq_true hlow, cond_true, Nat.mod_eq_of_lt (by omega), Nat.add_comm]
  · have hwrap : (j + r) % 32 = j - (32 - r) := by omega
    rw [decide_eq_false hlow, cond_false, decide_eq_true hj, Bool.true_and, hwrap]

/-- Two 32-bit values with one rotation are one value: each bit of a value stands in its rotation. -/
theorem rotateRight_injective {r : ℕ} (hr : r < 32) : Function.Injective fun x : U32 => x.rotateRight r := by
  intro x y h
  apply BitVec.eq_of_getLsbD_eq
  intro j hj
  have hplace : ((j + (32 - r)) % 32 + r) % 32 = j := by omega
  have hbit := congrArg (BitVec.getLsbD · ((j + (32 - r)) % 32)) h
  simpa only [rotateRight_getLsbD _ hr (Nat.mod_lt _ (by decide : 0 < 32)), hplace] using hbit

/-- The permuter reads its state in the bits from 27 on only (R82). -/
theorem perm_congr {old old' : U64} (h : ∀ i, 27 ≤ i → old'.getLsbD i = old.getLsbD i) : perm old' = perm old := by
  have hxor : xorshifted old' = xorshifted old := by
    apply BitVec.eq_of_getLsbD_eq
    intro j hj
    rw [xorshifted_getLsbD old' hj, xorshifted_getLsbD old hj, h _ (Nat.le_add_left 27 j), h (j + 45) (by omega)]
  have hrot : rotAmount old' = rotAmount old := by
    apply BitVec.eq_of_getLsbD_eq
    intro j _
    simp [rotAmount, trunc32, Config.rotShift, h (59 + j) (by omega)]
  rw [perm, perm, hxor, hrot]

/-- Settles O12: the xorshift by its bits, the output as their rotation, its independence by `perm_congr`. -/
theorem permuterBitLevel : Obligations.PermuterBitLevel := by
  intro old
  have hrot : old.toNat / 2 ^ 59 < 32 := by omega
  refine ⟨fun j hj => xorshifted_getLsbD old (by omega), fun j hlow hhigh => ?high, rotAmount_toNat old,
    fun j hj => ?output, fun old' h => perm_congr fun i hi => ?upper⟩
  case high =>
    rw [xorshifted_getLsbD old (by omega), BitVec.getLsbD_of_ge old (j + 45) (by omega), Bool.xor_false]
  case output => rw [perm_eq_rotateRight, rotateRight_getLsbD _ hrot (by omega)]
  case upper =>
    by_cases htop : i ≤ 63
    · exact h i hi htop
    · rw [BitVec.getLsbD_of_ge old' i (by omega), BitVec.getLsbD_of_ge old i (by omega)]

/-- Settles O13, through `perm_eq_rotateRight`; an injective rotation of a finite type is a bijection. -/
theorem rotationCorners : Obligations.RotationCorners := by
  refine ⟨fun old h => ?zero, fun old h => ?last, fun r hr => ?bijective, perm_eq_rotateRight⟩
  case zero =>
    rw [perm_eq_rotateRight, h, BitVec.rotateRight_def]
    simp
  case last =>
    rw [perm_eq_rotateRight, h, BitVec.rotateRight_def, BitVec.rotateLeft_def]
    exact ⟨rfl, BitVec.or_comm _ _⟩
  case bijective =>
    have hfun : (fun x : U32 => rotr32 x r) = fun x => x.rotateRight r.toNat :=
      funext fun x => rotr32_eq_rotateRight x (by omega)
    rw [hfun]
    exact Finite.injective_iff_bijective.mp (rotateRight_injective (by omega))

end Sys2Proof.Machine
end

section
/-! NEXT and the sequence of its outputs after SEED (41_next.md R84, R90). -/

namespace Sys2Proof.Machine

variable {s : State} {st inc : U64} {x : Command} {rest : List HostInput}

/-- The stepper in the rule's form, on numbers (R80). -/
theorem lcgStep_eq_ofNat (s inc : U64) :
    lcgStep s inc = BitVec.ofNat 64 (6364136223846793005 * s.toNat + inc.toNat) := by
  apply BitVec.eq_of_toNat_eq
  rw [lcgStepIsModular, BitVec.toNat_ofNat]

/-- The permuter in the rule's form, with a rotation in place of the two shifts (R81, R83). -/
theorem perm_eq_rotated_xorshift (old : U64) :
    perm old = (((old >>> 18 ^^^ old) >>> 27).setWidth 32).rotateRight (old >>> 59).toNat := by
  rw [BitVec.toNat_ushiftRight, Nat.shiftRight_eq_div_pow]
  exact perm_eq_rotateRight old

/-- The output at state 0 (R84). -/
theorem perm_zero : perm 0#64 = 0#32 := by decide

/-- The output at state 2^64 - 1 (R84). -/
theorem perm_allOnes : perm 0xFFFFFFFFFFFFFFFF#64 = 0xFFF00001#32 := by decide

/-- Settles O14: NEXT's effect on a seeded block by `execNext_seeded`, its two values in the rule's form, and the corners
by their outputs. -/
theorem nextCompletes : Obligations.NextCompletes := by
  refine ⟨fun s hs => ?seeded, fun s hs => execNext_unseeded hs, fun s hs hzero => ?zero,
    fun s t hones hs h => ?allOnes, fun s t h => ?sample⟩
  case seeded =>
    rw [← lcgStep_eq_ofNat, ← perm_eq_rotated_xorshift]
    exact execNext_seeded hs
  case zero =>
    rw [exec, execNext_seeded hs, State.mapCore, hzero, lcgStep_zero, perm_zero]
    rfl
  case allOnes =>
    cases (execNext_seeded hs).symm.trans h
    rw [mapCore_core, hones, perm_allOnes]
    rfl
  case sample =>
    have hseed : seedFn 42#64 54#64 = (0x185706B82C2E03F8#64, 0x6D#64) := by decide
    have hnext : next32 0x185706B82C2E03F8#64 0x6D#64 = (0xA15C02B7#32, 0x2B47FED88766BB05#64) := by decide
    cases h
    simp [hseed, hnext, zext64]

/-- The CORE block waits, seeded, with its generator at state `st` and increment `inc`, and the host's moves are these. -/
structure WaitsAt (st inc : U64) (moves : List HostInput) (s : State) : Prop where
  busy : s.core.busy = false
  seeded : s.core.seeded = true
  state : s.core.state = st
  inc : s.core.inc = inc
  inputs : s.inputs = moves

/-- The command starts no generation and no draw but NEXT's: it is no SEED, and no BOUNDED but of bound 0. -/
def KeepsSequence (x : Command) : Prop :=
  x.op ≠ 0x01#8 ∧ (x.op = 0x03#8 → x.a.toNat % 2 ^ 32 = 0)

/-- The step that takes SEED leaves the block waiting at the seeded generator (R71). -/
theorem waitsAt_of_seed {seed sel c d : U64} (hb : s.core.busy = false)
    (hin : s.inputs = .command .core ⟨0x01#8, seed, sel, c, d⟩ :: rest) :
    ∃ t, step s = .next t ∧ WaitsAt (seedFn seed sel).1 (seedFn seed sel).2 rest t :=
  ⟨_, step_command_ok hin rfl hb (decode_seed seed sel c d), hb, rfl, rfl, rfl, rfl⟩

/-- The step that takes NEXT moves the generator on and writes the output of the state before it (R84, R85). -/
theorem WaitsAt.step_next (h : WaitsAt st inc (.command .core x :: rest) s) (hop : x.op = 0x02#8) :
    ∃ t, step s = .next t ∧ WaitsAt (lcgStep st inc) inc rest t ∧ t.core.res = zext64 (perm st) := by
  obtain ⟨hb, hs, rfl, rfl, hin⟩ := h
  have hd : decode .core x = .ok .next := decode_eq_ok_iff.mpr ⟨rfl, hop.symm, trivial⟩
  exact ⟨_, (step_command_ok hin rfl hb hd).trans (execNext_seeded hs), ⟨hb, hs, rfl, rfl, rfl⟩, rfl⟩

/-- The step that takes another command that keeps the sequence leaves the generator where it is (R30, R90). -/
theorem WaitsAt.step_other (h : WaitsAt st inc (.command .core x :: rest) s) (hx : KeepsSequence x)
    (hop : x.op ≠ 0x02#8) : ∃ t, step s = .next t ∧ WaitsAt st inc rest t := by
  obtain ⟨hb, hs, rfl, rfl, hin⟩ := h
  obtain ⟨hseed, hbound⟩ := hx
  cases hd : decode .core x with
  | error e => exact ⟨_, step_command_reserved hin rfl hb hd, hb, hs, rfl, rfl, rfl⟩
  | ok i =>
    obtain ⟨hport, hopcode, hargs⟩ := decode_eq_ok_iff.mp hd
    rw [step_command_ok hin rfl hb hd]
    cases i with
    | seed _ _ => exact absurd hopcode.symm hseed
    | next => exact absurd hopcode.symm hop
    | bounded bound =>
      obtain rfl : bound = 0#32 := BitVec.eq_of_toNat_eq <|
        (congrArg BitVec.toNat hargs).trans ((boundedOperand_toNat x).trans (hbound hopcode.symm))
      exact ⟨_, execBounded_zero hs, hb, hs, rfl, rfl, rfl⟩
    | footprint => exact ⟨_, rfl, hb, hs, rfl, rfl, rfl⟩
    | rdstate => exact ⟨_, rfl, hb, hs, rfl, rfl, rfl⟩
    | rdinc => exact ⟨_, rfl, hb, hs, rfl, rfl, rfl⟩
    | dseed _ _ _ _ => cases hport
    | dnext => cases hport
    | dbounded _ => cases hport
    | dfootprint => cases hport

/-- Commands that keep the sequence leave the generator as many steps on as there are NEXTs among them; a NEXT at the end
has written the output of the state before its step (R90). -/
theorem WaitsAt.runSteps_commands (cmds : List Command) (hkeep : ∀ x ∈ cmds, KeepsSequence x)
    (h : WaitsAt st inc (cmds.map (HostInput.command .core) ++ rest) s) :
    ∃ t, runSteps cmds.length s = .next t ∧
      WaitsAt (stateAfter st inc (cmds.countP fun x => x.op == 0x02#8)) inc rest t ∧
      ∀ x ∈ cmds.getLast?, x.op = 0x02#8 →
        t.core.res = zext64 (perm (stateAfter st inc ((cmds.countP fun x => x.op == 0x02#8) - 1))) := by
  induction cmds using List.reverseRecOn generalizing rest with
  | nil => exact ⟨s, rfl, h, nofun⟩
  | append_singleton cmds x ih =>
    rw [List.map_append, List.append_assoc] at h
    obtain ⟨t, hrun, ht, -⟩ := ih (fun y hy => hkeep y (List.mem_append_left _ hy)) h
    rw [List.length_append, runSteps_add hrun, List.countP_append, List.getLast?_append]
    by_cases hop : x.op = 0x02#8
    · obtain ⟨u, hstep, hu, hres⟩ := ht.step_next hop
      exact ⟨u, runSteps_succ_of_next hstep, by simpa [hop, stateAfter] using hu, by simpa [hop] using hres⟩
    · obtain ⟨u, hstep, hu⟩ := ht.step_other (hkeep x (by simp)) hop
      exact ⟨u, runSteps_succ_of_next hstep, by simpa [hop] using hu, by simp [hop]⟩

/-- Settles O19: SEED leaves the block waiting at the seeded generator, and `WaitsAt.runSteps_commands` follows the
commands after it. -/
theorem outputSequence : Obligations.OutputSequence := by
  intro s seed sel c d cmds hb hkeep
  obtain ⟨t, hstep, ht⟩ := waitsAt_of_seed (rest := cmds.map (HostInput.command .core)) (s :=
    { s with inputs := .command .core ⟨0x01#8, seed, sel, c, d⟩ :: cmds.map (HostInput.command .core) }) hb rfl
  obtain ⟨u, hrun, hu, hres⟩ := WaitsAt.runSteps_commands cmds hkeep (by rwa [List.append_nil])
  exact ⟨u, (runSteps_succ_of_next hstep).trans hrun, hu.state, hres⟩

end Sys2Proof.Machine
end

section
/-! The threshold and the comparator at every width (42_bounded.md R100 to R103). -/

namespace Sys2Proof.Machine

variable {w : ℕ} {bound : BitVec w}

/-- The threshold as an exact integer (R100). -/
theorem thresh_toNat (hb : bound ≠ 0#w) : (thresh bound).toNat = (2 ^ w - bound.toNat) % bound.toNat := by
  have hpos : 0 < bound.toNat := Nat.zero_lt_of_lt (thresh_lt hb)
  have hsub : (0#w - bound).toNat = 2 ^ w - bound.toNat := by
    rw [BitVec.toNat_sub, BitVec.toNat_zero, Nat.add_zero, Nat.mod_eq_of_lt (by omega)]
  rw [thresh, umod_of_ne_zero _ hb, BitVec.toNat_umod, hsub]

/-- The threshold is the rest of `2^w` by the bound (R100). -/
theorem thresh_toNat_eq_two_pow_mod (hb : bound ≠ 0#w) : (thresh bound).toNat = 2 ^ w % bound.toNat := by
  rw [thresh_toNat hb, ← Nat.mod_eq_sub_mod bound.isLt.le]

/-- Settles O22, from the threshold's two forms and the bound on a remainder. -/
theorem thresholdIsPowerModBound : Obligations.ThresholdIsPowerModBound :=
  fun _ _ hb => ⟨thresh_toNat hb, thresh_toNat_eq_two_pow_mod hb, thresh_lt hb⟩

/-- `Reduce` is the remainder of the draw by the bound (R102). -/
theorem reduce_toNat (r : BitVec w) (hb : bound ≠ 0#w) : (reduce r bound).toNat = r.toNat % bound.toNat := by
  rw [reduce, umod_of_ne_zero r hb, BitVec.toNat_umod]

/-- The result is below the bound (R102). -/
theorem reduce_lt (r : BitVec w) (hb : bound ≠ 0#w) : (reduce r bound).toNat < bound.toNat :=
  umod_lt r hb

/-- Without the rejected draw values a whole number of bounds is left (R103). -/
theorem dvd_two_pow_sub_thresh (hb : bound ≠ 0#w) : bound.toNat ∣ 2 ^ w - (thresh bound).toNat := by
  rw [thresh_toNat_eq_two_pow_mod hb]
  exact Nat.dvd_sub_mod _

/-- The threshold is below half of all draw values (R103): the bound fits at least once into `2^w`, and the rest is
below it. -/
theorem two_mul_thresh_lt (hb : bound ≠ 0#w) : 2 * (thresh bound).toNat < 2 ^ w := by
  have hrest : (thresh bound).toNat < bound.toNat := thresh_lt hb
  have hfits : bound.toNat ≤ 2 ^ w - (thresh bound).toNat :=
    Nat.le_of_dvd (by omega) (dvd_two_pow_sub_thresh hb)
  omega

/-- Among any `a` numbers in a row, `m` dividing `a`, one in `m` has a given rest by `m`. -/
theorem card_filter_mod_eq {m a v : ℕ} (hdvd : m ∣ a) (hv : v < m) (n : ℕ) :
    ((Finset.Ico n (n + a)).filter fun x => x % m = v).card = a / m := by
  obtain ⟨q, rfl⟩ := hdvd
  have hperiodic : Function.Periodic (fun x => x % m = v) (m * q) := fun x => by simp
  have hcount := Nat.count_modEq_card (m * q) (Nat.zero_lt_of_lt hv) v
  simp only [Nat.ModEq, Nat.mod_eq_of_lt hv, Nat.mul_mod_right, Nat.not_lt_zero, if_false, Nat.add_zero] at hcount
  rw [Nat.filter_Ico_card_eq_of_periodic n _ _ hperiodic, hcount]

/-- The draw values that are accepted with the result `v` are the numbers from the threshold on with that rest (R101,
R102). -/
theorem accepted_draws_eq (hb : bound ≠ 0#w) (v : ℕ) :
    ((Finset.range (2 ^ w)).filter fun n =>
      accept (BitVec.ofNat w n) (thresh bound) = true ∧ (reduce (BitVec.ofNat w n) bound).toNat = v) =
    (Finset.Ico (thresh bound).toNat (2 ^ w)).filter fun n => n % bound.toNat = v := by
  ext n
  simp only [Finset.mem_filter, Finset.mem_range, Finset.mem_Ico, accept_iff, reduce_toNat _ hb, BitVec.toNat_ofNat]
  constructor
  · rintro ⟨hn, haccept, hres⟩
    rw [Nat.mod_eq_of_lt hn] at haccept hres
    exact ⟨⟨haccept, hn⟩, hres⟩
  · rintro ⟨⟨haccept, hn⟩, hres⟩
    rw [Nat.mod_eq_of_lt hn]
    exact ⟨hn, haccept, hres⟩

/-- The rejected draw values are the numbers below the threshold (R101). -/
theorem rejected_draws_eq (t : BitVec w) :
    ((Finset.range (2 ^ w)).filter fun n => accept (BitVec.ofNat w n) t = false) = Finset.range t.toNat := by
  ext n
  simp only [Finset.mem_filter, Finset.mem_range, accept_eq_false_iff, BitVec.toNat_ofNat]
  constructor
  · rintro ⟨hn, hlt⟩
    rwa [Nat.mod_eq_of_lt hn] at hlt
  · intro hlt
    have hn := hlt.trans t.isLt
    rw [Nat.mod_eq_of_lt hn]
    exact ⟨hn, hlt⟩

/-- Settles O23: the accepted draw values are a whole number of bounds in a row, so each rest is among them equally
often. -/
theorem comparatorIsExact : Obligations.ComparatorIsExact := by
  intro w bound hb
  refine ⟨dvd_two_pow_sub_thresh hb, fun v hv => ?accepted, ?rejected, two_mul_thresh_lt hb⟩
  case accepted =>
    have hcard := card_filter_mod_eq (dvd_two_pow_sub_thresh hb) hv (thresh bound).toNat
    rwa [Nat.add_sub_of_le (thresh bound).isLt.le, ← accepted_draws_eq hb] at hcard
  case rejected => rw [rejected_draws_eq, Finset.card_range]

/-- A power of two is no zero bound. -/
theorem twoPow_ne_zero {j : ℕ} (hj : j < w) : BitVec.twoPow w j ≠ 0#w := fun h => by
  have hval := congrArg BitVec.toNat h
  rw [BitVec.toNat_twoPow_of_lt hj, BitVec.toNat_zero] at hval
  exact absurd hval (Nat.two_pow_pos j).ne'

/-- For a bound that is a power of two no draw is rejected (R105). -/
theorem thresh_twoPow {j : ℕ} (hj : j < w) : thresh (BitVec.twoPow w j) = 0#w := by
  apply BitVec.eq_of_toNat_eq
  rw [thresh_toNat_eq_two_pow_mod (twoPow_ne_zero hj), BitVec.toNat_twoPow_of_lt hj, BitVec.toNat_zero]
  exact Nat.mod_eq_zero_of_dvd (Nat.pow_dvd_pow 2 hj.le)

/-- For a bound that is a power of two the result is the draw's low bits (R105). -/
theorem reduce_twoPow (r : BitVec w) {j : ℕ} (hj : j < w) :
    reduce r (BitVec.twoPow w j) = r &&& (BitVec.twoPow w j - 1#w) := by
  have hone : (1#w).toNat = 1 := Nat.mod_eq_of_lt (Nat.one_lt_two_pow (by omega))
  have hle : (1#w).toNat ≤ (BitVec.twoPow w j).toNat := by
    rw [hone, BitVec.toNat_twoPow_of_lt hj]
    exact Nat.one_le_two_pow
  apply BitVec.eq_of_toNat_eq
  rw [reduce_toNat r (twoPow_ne_zero hj), BitVec.toNat_and, BitVec.toNat_sub_of_le hle, hone,
    BitVec.toNat_twoPow_of_lt hj, Nat.and_two_pow_sub_one_eq_mod]

end Sys2Proof.Machine
end

section
/-! BOUNDED's acceptance and its draws, step by step (42_bounded.md R104, R105, R111). -/

namespace Sys2Proof.Machine

variable {s : State} {r : CoreRegs}

/-- The registers right after the acceptance of a BOUNDED (R104). -/
def CoreRegs.began (r : CoreRegs) (bound : U32) : CoreRegs :=
  { r with pbound := bound, pthresh := thresh bound, busy := true, err := .ok }

/-- The opcode of BOUNDED decodes to BOUNDED of the low half of the first operand field (R52, R53). -/
theorem decode_bounded {c : Command} (hop : c.op = 0x03#8) : decode .core c = .ok (.bounded (c.a.setWidth 32)) :=
  decode_eq_ok_iff.mpr ⟨rfl, hop.symm, rfl⟩

/-- Settles O24: the three cases of BOUNDED's acceptance, the threshold as an exact integer, and the ignored upper half
by `decode_bounded`. -/
theorem boundedAcceptance : Obligations.BoundedAcceptance := by
  refine ⟨fun s bound hs => execBounded_unseeded bound hs, fun s hs => execBounded_zero hs,
    fun s bound hs hb => ?accepted, fun b c d => ?ignored⟩
  case ignored =>
    have hlow : (0x0000000100000000#64).setWidth 32 = 0#32 := by decide
    exact hlow ▸ decode_bounded rfl
  case accepted =>
    rw [← thresh_toNat hb, BitVec.ofNat_toNat, BitVec.setWidth_eq]
    exact execBounded_accepted hs hb

/-- The step that takes a BOUNDED with a nonzero bound on a seeded idle block is its acceptance (R104). -/
theorem step_bounded_accepted {c : Command} {rest : List HostInput} (hs : s.core.seeded = true)
    (hidle : s.core.busy = false) (hb : c.a.setWidth 32 ≠ 0#32) (hop : c.op = 0x03#8)
    (hin : s.inputs = .command .core c :: rest) :
    step s = .next { s with inputs := rest, core := s.core.began (c.a.setWidth 32) } :=
  (step_command_ok hin rfl hidle (decode_bounded hop)).trans (execBounded_accepted hs hb)

/-- One draw in the rule's form, on numbers (R105). -/
theorem drawCore_eq_ofNat (hb : r.pbound ≠ 0#32) :
    drawCore r =
      if r.pthresh.toNat ≤ (perm r.state).toNat then
        { r with
          state := BitVec.ofNat 64 (6364136223846793005 * r.state.toNat + r.inc.toNat)
          res := BitVec.ofNat 64 ((perm r.state).toNat % r.pbound.toNat)
          busy := false }
      else
        { r with state := BitVec.ofNat 64 (6364136223846793005 * r.state.toNat + r.inc.toNat) } := by
  rw [← lcgStep_eq_ofNat, ← reduce_toNat _ hb, BitVec.ofNat_toNat, ← zext64]
  split
  next haccept => exact drawCore_accepted ((accept_iff _ _).mpr haccept)
  next hreject => exact drawCore_rejected ((accept_eq_false_iff _ _).mpr (Nat.lt_of_not_le hreject))

/-- While the host leaves the busy CORE block to itself, a step is one draw and nothing else (R105, R176). -/
theorem step_coreHeld (hb : s.core.busy = true) (hheld : s.coreHeld) :
    step s = .next { s with core := drawCore s.core } := by
  rcases hheld with hin | ⟨cmd, rest, hin⟩
  · rw [step_nil hin, freeRun, if_pos hb, ownTransition_core_busy hb, State.mapCore]
  · rw [step_command_held hin (hasPort_core s) hb, ownTransition_core_busy hb, State.mapCore]

/-- Settles O25: the step is one draw in both situations of the host, and a power of two as a bound rejects no draw. -/
theorem coreDraw : Obligations.CoreDraw := by
  refine ⟨fun s hb hbound hheld => ?held, fun s rest hb hbound hin => ?pass,
    fun r j hj => ⟨thresh_twoPow hj, reduce_twoPow r hj⟩⟩
  case held =>
    rw [← drawCore_eq_ofNat hbound]
    exact step_coreHeld hb hheld
  case pass =>
    rw [← drawCore_eq_ofNat hbound, step_pass hin (hasPort_core s)]
    exact congrArg _ (ownTransition_core_busy (s := { s with inputs := rest }) hb)

/-- A draw after which the block is not busy is the accepted one, and its result is below the bound (R105, R111). -/
theorem drawCore_res_lt (hb : r.busy = true) (hbound : r.pbound ≠ 0#32) (hend : (drawCore r).busy = false) :
    (drawCore r).pbound = r.pbound ∧ (drawCore r).res.toNat < r.pbound.toNat := by
  cases ha : accept (perm r.state) r.pthresh with
  | true =>
    have hzext (v : U32) : (zext64 v).toNat = v.toNat := BitVec.toNat_setWidth_of_le (by decide)
    rw [drawCore_accepted ha, hzext]
    exact ⟨rfl, reduce_lt _ hbound⟩
  | false =>
    rw [drawCore_rejected ha] at hend
    exact absurd hend (by simp [hb])

/-- Settles O28: the step that ends the BOUNDED is no reset and changes the block, so it is its accepted draw. -/
theorem boundedResultInRange : Obligations.BoundedResultInRange := by
  intro s t hinv hb hstep hend hreset
  obtain ⟨-, -, hbound, -⟩ := hinv.core.pending hb
  rcases step_core_while_busy hstep hb hreset with hkept | hdraw
  · rw [hkept, hb] at hend
    cases hend
  · rw [hdraw] at hend ⊢
    obtain ⟨hpbound, hlt⟩ := drawCore_res_lt hb hbound hend
    exact ⟨hpbound, hlt, hlt.trans s.core.pbound.isLt⟩

end Sys2Proof.Machine
end

section
/-! The draws of a BOUNDED up to the first accepted one, the search of the atomic function, and the run of a block
left to itself (42_bounded.md R106, R107). -/

namespace Sys2Proof.Machine

variable {s : State} {r : CoreRegs} {j k : ℕ} {bound : U32}

/-- The registers after `j` rejected draws (R105). -/
def CoreRegs.rejected (r : CoreRegs) (j : ℕ) : CoreRegs := { r with state := stateAfter r.state r.inc j }

/-- The registers after `k` rejected draws and an accepted one (R105). -/
def CoreRegs.ended (r : CoreRegs) (k : ℕ) : CoreRegs :=
  { r with
    state := stateAfter r.state r.inc (k + 1)
    res := zext64 (reduce (perm (stateAfter r.state r.inc k)) r.pbound)
    busy := false }

/-- The first accepted draw is the one after `k` rejected draws (R106). -/
structure FirstAccepted (r : CoreRegs) (k : ℕ) : Prop where
  accepted : accept (perm (stateAfter r.state r.inc k)) r.pthresh = true
  rejected : ∀ j < k, accept (perm (stateAfter r.state r.inc j)) r.pthresh = false

/-- With an odd increment and a threshold below half of all draw values, one of the first 2^64 draws is accepted (R106):
they are made from every state, and the output at state 2^64 - 1 is in the upper half. -/
theorem exists_firstAccepted (hodd : r.inc.getLsbD 0 = true) (hhalf : 2 * r.pthresh.toNat < 2 ^ 32) :
    ∃ k < 2 ^ 64, FirstAccepted r k := by
  obtain ⟨m, hm, hstate⟩ := exists_stateAfter_eq hodd r.state 0xFFFFFFFFFFFFFFFF#64
  have hupper : accept (perm (stateAfter r.state r.inc m)) r.pthresh = true := by
    rw [accept_iff, hstate, perm_allOnes, BitVec.toNat_ofNat]
    omega
  have haccept : ∃ n, accept (perm (stateAfter r.state r.inc n)) r.pthresh = true := ⟨m, hupper⟩
  exact ⟨Nat.find haccept, (Nat.find_min' haccept hupper).trans_lt hm, Nat.find_spec haccept,
    fun j hj => Bool.eq_false_of_not_eq_true (Nat.find_min haccept hj)⟩

/-- The atomic function finds the first accepted draw, with enough fuel (R107). -/
theorem boundedFn_eq_some {st inc : U64} {fuel : ℕ} (hk : k < fuel)
    (haccept : accept (perm (stateAfter st inc k)) (thresh bound) = true)
    (hreject : ∀ j < k, accept (perm (stateAfter st inc j)) (thresh bound) = false) :
    boundedFn fuel st inc bound =
      some (reduce (perm (stateAfter st inc k)) bound, stateAfter st inc (k + 1)) := by
  induction fuel generalizing st k with
  | zero => exact absurd hk (Nat.not_lt_zero k)
  | succ fuel ih =>
    rw [boundedFn]
    cases k with
    | zero => exact if_pos haccept
    | succ k =>
      have hfirst : accept (perm st) (thresh bound) = false := hreject 0 k.succ_pos
      rw [stateAfter_succ'] at haccept
      have hlater : ∀ j < k, accept (perm (stateAfter (lcgStep st inc) inc j)) (thresh bound) = false := fun j hj => by
        rw [← stateAfter_succ']
        exact hreject (j + 1) (Nat.succ_lt_succ hj)
      rw [hfirst, if_neg Bool.false_ne_true, ih (Nat.lt_of_succ_lt_succ hk) haccept hlater, stateAfter_succ' st,
        stateAfter_succ' st]

/-- An accepted BOUNDED has a first accepted draw, one of the first 2^64, and the atomic function answers with it (R106,
R107). -/
theorem exists_firstAccepted_began (hodd : r.inc.getLsbD 0 = true) (hb : bound ≠ 0#32) :
    ∃ k < 2 ^ 64, FirstAccepted (r.began bound) k ∧
      boundedFn (2 ^ 64) r.state r.inc bound =
        some (reduce (perm (stateAfter r.state r.inc k)) bound, stateAfter r.state r.inc (k + 1)) := by
  obtain ⟨k, hk, hfirst⟩ := exists_firstAccepted (r := r.began bound) hodd (two_mul_thresh_lt hb)
  exact ⟨k, hk, hfirst, boundedFn_eq_some hk hfirst.accepted hfirst.rejected⟩

/-- A draw before the first accepted one is rejected (R105). -/
theorem FirstAccepted.drawCore_rejected (h : FirstAccepted r k) (hj : j < k) :
    drawCore (r.rejected j) = r.rejected (j + 1) :=
  Machine.drawCore_rejected (h.rejected j hj)

/-- The draw after all rejected ones ends the BOUNDED (R105). -/
theorem FirstAccepted.drawCore_ended (h : FirstAccepted r k) : drawCore (r.rejected k) = r.ended k :=
  drawCore_accepted h.accepted

/-- Left to itself the block makes its rejected draws one per step (R105, R106). -/
theorem FirstAccepted.runSteps_rejected (h : FirstAccepted r k) (hb : r.busy = true) (hheld : s.coreHeld) {i : ℕ}
    (hcore : s.core = r.rejected i) (hj : i + j ≤ k) : runSteps j s = .next { s with core := r.rejected (i + j) } := by
  induction j generalizing s i with
  | zero => rw [runSteps_zero, Nat.add_zero, ← hcore]
  | succ j ih =>
    have hstep := step_coreHeld (hcore ▸ hb) hheld
    rw [hcore, h.drawCore_rejected (by omega)] at hstep
    have hlater := ih (s := { s with core := r.rejected (i + 1) }) hheld rfl (by omega)
    rw [runSteps_succ_of_next hstep, hlater, Nat.add_assoc, Nat.add_comm 1]

/-- Left to itself the block ends its BOUNDED with the first accepted draw (R105, R106). -/
theorem FirstAccepted.runSteps_ended (h : FirstAccepted r k) (hb : r.busy = true) (hheld : s.coreHeld) {i : ℕ}
    (hcore : s.core = r.rejected i) (hi : i ≤ k) : runSteps (k - i + 1) s = .next { s with core := r.ended k } := by
  have hrejected := h.runSteps_rejected hb hheld hcore (Nat.add_sub_of_le hi).le
  rw [Nat.add_sub_of_le hi] at hrejected
  have hstep := step_coreHeld (s := { s with core := r.rejected k }) hb hheld
  rw [runSteps_add hrejected, runSteps_succ_of_next hstep, runSteps_zero, h.drawCore_ended]

/-- Settles O26: by the invariant the increment is odd and the threshold is the pending bound's, so there is a first
accepted draw. -/
theorem drawCount : Obligations.DrawCount := by
  intro s hinv hb hheld
  obtain ⟨hs, -, hbound, hthresh, -⟩ := hinv.core.pending hb
  obtain ⟨k, hk, hfirst⟩ := exists_firstAccepted (hinv.core.odd hs) (hthresh ▸ two_mul_thresh_lt hbound)
  refine ⟨k + 1, k.succ_pos, hk, hfirst.accepted, fun j hlow hj => hfirst.rejected (j - 1) (by omega), fun j hj => ?_,
    _, hfirst.runSteps_ended (i := 0) hb hheld rfl k.zero_le, rfl, rfl⟩
  exact ⟨_, hfirst.runSteps_rejected (i := 0) hb hheld rfl (by omega), hb⟩

/-- Settles O27: the acceptance, then the draws up to the first accepted one. -/
theorem boundedRunIsAtomic : Obligations.BoundedRunIsAtomic := by
  rintro s c bound rest hs hodd hidle hb hop rfl hin hheld
  obtain ⟨k, hk, hfirst, hfn⟩ := exists_firstAccepted_began (r := s.core) hodd hb
  refine ⟨k + 1, _, _, k.succ_pos, hk, hfn, ?_⟩
  have hdraws := hfirst.runSteps_ended (s := { s with inputs := rest, core := s.core.began (c.a.setWidth 32) })
    (i := 0) rfl hheld rfl k.zero_le
  exact (runSteps_succ_of_next (step_bounded_accepted hs hidle hb hop hin)).trans hdraws

end Sys2Proof.Machine
end

section
/-! A BOUNDED in progress among other moves of the host (42_bounded.md R107, 20_memory.md R43, 70_reset_and_hazards.md
R176). -/

namespace Sys2Proof.Machine

variable {s t : State} {r : CoreRegs} {k : ℕ}

/-- The block has made some of its draws, or all: these are the registers it can show from the acceptance of a BOUNDED
to its end. -/
def CoreRegs.OnTheWay (r : CoreRegs) (k : ℕ) (now : CoreRegs) : Prop :=
  (∃ i ≤ k, now = r.rejected i) ∨ now = r.ended k

/-- A draw of the busy block leads to registers on the way. -/
theorem FirstAccepted.onTheWay_drawCore (h : FirstAccepted r k) {now : CoreRegs} (hnow : r.OnTheWay k now)
    (hb : now.busy = true) : r.OnTheWay k (drawCore now) := by
  rcases hnow with ⟨i, hi, rfl⟩ | rfl
  · rcases hi.lt_or_eq with hlt | rfl
    · exact .inl ⟨i + 1, hlt, h.drawCore_rejected hlt⟩
    · exact .inr h.drawCore_ended
  · cases hb

/-- Steps of the busy block, none of them its reset, lead to registers on the way, whatever the host does
(R105, R176). -/
theorem FirstAccepted.onTheWay_runSteps (h : FirstAccepted r k) {n : ℕ} (hs : r.OnTheWay k s.core)
    (hrun : runSteps n s = .next t)
    (hbusy : ∀ j u, j < n → runSteps j s = .next u →
      u.core.busy = true ∧ ∀ presented later, u.inputs ≠ .reset .core presented :: later) :
    r.OnTheWay k t.core := by
  induction n generalizing s with
  | zero => cases hrun; exact hs
  | succ n ih =>
    obtain ⟨hb, hreset⟩ := hbusy 0 s n.succ_pos rfl
    cases hstep : step s with
    | fault e => rw [runSteps, hstep] at hrun; cases hrun
    | refused e => rw [runSteps, hstep] at hrun; cases hrun
    | next u =>
      rw [runSteps_succ_of_next hstep] at hrun
      refine ih ?_ hrun fun j v hj hv => hbusy (j + 1) v (Nat.succ_lt_succ hj) ((runSteps_succ_of_next hstep).trans hv)
      rcases step_core_while_busy hstep hb hreset with hkept | hdraw
      · rwa [hkept]
      · rw [hdraw]
        exact h.onTheWay_drawCore hs hb

/-- Settles O55: after the acceptance the block stays on the way to its end, and of the registers there only those at
the end are not busy. -/
theorem boundedEndIsAtomic : Obligations.BoundedEndIsAtomic := by
  rintro s t c bound rest n hs hodd hidle hb hop rfl hin hrun hend hbusy
  obtain ⟨k, -, hfirst, hfn⟩ := exists_firstAccepted_began (r := s.core) hodd hb
  have hstep := step_bounded_accepted hs hidle hb hop hin
  simp only [runSteps_succ_of_next hstep] at hrun hbusy
  refine ⟨_, _, hfn, ?_⟩
  rcases hfirst.onTheWay_runSteps (.inl ⟨0, k.zero_le, rfl⟩) hrun hbusy with ⟨i, -, hrejected⟩ | hended
  · rw [hrejected] at hend
    cases hend
  · exact hended

/-- A read or a wait of the host for a block that is there is used up, and the CORE block draws meanwhile or holds its
state (R43, R105). -/
theorem step_read_or_pass {move : HostInput} {rest : List HostInput} (hin : s.inputs = move :: rest)
    (hp : s.hasPort move.port = true) (hmove : (∃ reg, move = .read reg) ∨ ∃ p, move = .pass p) :
    ∃ t, step s = .next t ∧ t.inputs = rest ∧
      (t.core = s.core ∨ s.core.busy = true ∧ t.core = drawCore s.core) := by
  rcases hmove with ⟨reg, rfl⟩ | ⟨p, rfl⟩
  · exact ⟨_, step_read hin hp, rfl, .inl rfl⟩
  · refine ⟨_, step_pass hin hp, ownTransition_inputs _ _, ?_⟩
    cases p with
    | dual => exact .inl ownTransition_dual_core
    | core =>
      rw [ownTransition_core_core]
      split
      · exact .inr ⟨‹_›, rfl⟩
      · exact .inl rfl

/-- Reads and waits of the host, for blocks that are there, lead to registers on the way (R43, R105). -/
theorem FirstAccepted.onTheWay_moves (h : FirstAccepted r k) (hs : r.OnTheWay k s.core) {moves later : List HostInput}
    (hin : s.inputs = moves ++ later)
    (hmoves : ∀ m ∈ moves, s.hasPort m.port = true ∧ ((∃ reg, m = .read reg) ∨ ∃ p, m = .pass p)) :
    ∃ t, runSteps moves.length s = .next t ∧ t.inputs = later ∧ r.OnTheWay k t.core := by
  induction moves generalizing s with
  | nil => exact ⟨s, rfl, hin, hs⟩
  | cons move moves ih =>
    obtain ⟨hp, hmove⟩ := hmoves move List.mem_cons_self
    obtain ⟨u, hstep, huin, hucore⟩ := step_read_or_pass hin hp hmove
    have hu : r.OnTheWay k u.core := by
      rcases hucore with hkept | ⟨hb, hdraw⟩
      · rwa [hkept]
      · rw [hdraw]
        exact h.onTheWay_drawCore hs hb
    have hports (p : Port) : u.hasPort p = s.hasPort p := by
      cases p <;> simp [step_dualPresent hstep]
    rw [List.length_cons, runSteps_succ_of_next hstep]
    exact ih hu huin fun m hm => by rw [hports]; exact hmoves m (List.mem_cons_of_mem move hm)

/-- From registers on the way the block reaches its end when it is left to itself. -/
theorem FirstAccepted.exists_runSteps_ended (h : FirstAccepted r k) (hb : r.busy = true) (hs : r.OnTheWay k s.core)
    (hheld : s.coreHeld) : ∃ m, runSteps m s = .next { s with core := r.ended k } := by
  rcases hs with ⟨i, hi, hcore⟩ | hcore
  · exact ⟨_, h.runSteps_ended hb hheld hcore hi⟩
  · exact ⟨0, by rw [runSteps_zero, ← hcore]⟩

/-- Settles O54: the acceptance, then the reads and waits with the block on the way, then the draws that are left. -/
theorem boundedEndsAmongHostMoves : Obligations.BoundedEndsAmongHostMoves := by
  rintro s c bound moves later hs hodd hidle hb hop rfl hin hmoves hheld
  obtain ⟨k, -, hfirst, hfn⟩ := exists_firstAccepted_began (r := s.core) hodd hb
  have hstep := step_bounded_accepted hs hidle hb hop hin
  obtain ⟨u, hrun, huin, hu⟩ := hfirst.onTheWay_moves (later := later)
    (s := { s with inputs := moves ++ later, core := s.core.began (c.a.setWidth 32) }) (.inl ⟨0, k.zero_le, rfl⟩) rfl
    hmoves
  obtain ⟨m, hend⟩ := hfirst.exists_runSteps_ended rfl hu (by rwa [State.coreHeld, huin])
  refine ⟨1 + (moves.length + m), { u with core := (s.core.began (c.a.setWidth 32)).ended k }, _, _, hfn, ?_, huin, rfl⟩
  rw [Nat.add_comm, runSteps_succ_of_next hstep, runSteps_add hrun, hend]

end Sys2Proof.Machine
end

section
/-! The query commands (43_query.md R120 to R123). -/

namespace Sys2Proof.Machine

variable {s : State}

/-- What an answer has put into `RES` and `ERR` does not show after a NEXT on a seeded block: NEXT writes both itself
(R84). -/
theorem execNext_coreAnswer (hs : s.core.seeded = true) (v : U64) : execNext (coreAnswer v s) = execNext s := by
  have hanswered : (coreAnswer v s).core.seeded = true := hs
  rw [execNext_seeded hs, execNext_seeded hanswered]
  rfl

/-- Settles O29: each query is an answer in every state, the invariant says what `STATE` and `INC` hold before and after
SEED, and a NEXT after RDSTATE by `execNext_coreAnswer`. -/
theorem queriesComplete : Obligations.QueriesComplete := by
  refine ⟨fun _ => rfl, fun _ => rfl, fun _ => rfl, fun s t u hinv hstate hinc => ?answers, fun s t hs h => ?next⟩
  case answers =>
    cases hstate
    cases hinc
    exact ⟨hinv.core.unseeded, hinv.core.odd⟩
  case next =>
    cases h
    exact execNext_coreAnswer hs s.core.state

end Sys2Proof.Machine
end

section
/-! The selector correction and DSEED (44_dual_stream.md R131 to R133, R139). -/

namespace Sys2Proof.Machine

/-- The mask keeps bits 62:0, so masked selectors agree exactly when the selectors do modulo 2^63 (R131). -/
theorem mask_eq_iff {sel1 sel2 : U64} :
    sel1 &&& Config.dualMask = sel2 &&& Config.dualMask ↔ sel1.toNat % 2 ^ 63 = sel2.toNat % 2 ^ 63 := by
  have hmask (sel : U64) : (sel &&& Config.dualMask).toNat = sel.toNat % 2 ^ 63 := by
    rw [BitVec.toNat_and]
    exact Nat.and_two_pow_sub_one_eq_mod _ 63
  rw [← BitVec.toNat_inj, hmask, hmask]

/-- The complement of a selector that agrees with another in bits 62:0 differs from that one in each of them (R132). -/
theorem getLsbD_not_of_mod_eq {sel1 sel2 : U64} (h : sel1.toNat % 2 ^ 63 = sel2.toNat % 2 ^ 63) {j : ℕ} (hj : j < 63) :
    (~~~sel2).getLsbD j = !sel1.getLsbD j := by
  have hbit := congrArg (Nat.testBit · j) h
  simp only [Nat.testBit_mod_two_pow, hj, decide_true, Bool.true_and] at hbit
  rw [BitVec.getLsbD_not, decide_eq_true (by omega : j < 64), Bool.true_and]
  exact congrArg (!·) hbit.symm

/-- Settles O35: the two cases of the correction, and in both a first selector that still differs in bits 62:0. -/
theorem selectorCorrection : Obligations.SelectorCorrection := by
  intro sel1 sel2
  refine ⟨fun h => correct_of_eq (mask_eq_iff.mpr h), fun h => correct_of_ne (mask_eq_iff.not.mpr h),
    mask_eq_iff.not.mp (mask_ne_mask_correct sel1 sel2), incrementOf_ne_incrementOf_correct sel1 sel2,
    fun h j hj => ?_⟩
  rw [correct_of_eq (mask_eq_iff.mpr h)]
  exact getLsbD_not_of_mod_eq h hj

/-- DSEED completes only on a machine with the wrapper, with its one effect (R6, R133). -/
theorem execDseed_inv {s t : State} {seed1 seed2 sel1 sel2 : U64} (h : exec (.dseed seed1 seed2 sel1 sel2) s = .next t) :
    t.dual = { s.dual with
      state0 := (seedFn seed1 sel1).1, inc0 := (seedFn seed1 sel1).2
      state1 := (seedFn seed2 (correct sel1 sel2)).1, inc1 := (seedFn seed2 (correct sel1 sel2)).2
      seeded := true, err := .ok } := by
  obtain ⟨hp, -⟩ := exec_dual_inv rfl h
  cases (execDseed_present seed1 seed2 sel1 sel2 hp).symm.trans h
  rfl

/-- The two bootstraps of `DSEED 42, 54, 54, 54`, the second with the corrected selector (R133). -/
theorem seedFn_sample :
    seedFn 42#64 54#64 = (0x185706B82C2E03F8#64, 0x6D#64) ∧
    seedFn 54#64 (correct 54#64 54#64) = (0x06648A448BE1ACE8#64, 0xFFFFFFFFFFFFFF93#64) := by decide

/-- Settles O36: DSEED's effect with the increments as numbers, and what R139 says of these. -/
theorem dseedCompletes : Obligations.DseedCompletes := by
  refine ⟨fun s seed1 seed2 sel1 sel2 hp => ?effect, fun s t seed1 seed2 sel1 sel2 h => ?increments,
    fun s t h => ?sample⟩
  case effect =>
    rw [← incrementOf_eq_ofNat, ← incrementOf_eq_ofNat]
    exact execDseed_present seed1 seed2 sel1 sel2 hp
  case increments =>
    rw [execDseed_inv h]
    exact ⟨incrementOf_ne_incrementOf_correct sel1 sel2, incrementOf_odd sel1, incrementOf_odd _⟩
  case sample =>
    obtain ⟨hfirst, hsecond⟩ := seedFn_sample
    rw [execDseed_inv h, hfirst, hsecond]
    exact ⟨rfl, rfl, rfl, rfl⟩

end Sys2Proof.Machine
end

section
/-! DNEXT, DFOOTPRINT and the acceptance of DBOUNDED (44_dual_stream.md R134 to R138). -/

namespace Sys2Proof.Machine

/-- The wrapper's draw has gen0's output above gen1's (R134, R135). -/
theorem dualDraw_eq_append (s0 s1 : U64) : dualDraw s0 s1 = perm s0 ++ perm s1 :=
  BitVec.setWidth_append_eq_shiftLeft_setWidth_or.symm.trans (BitVec.setWidth_eq _)

/-- The wrapper's draw as a number (R137). -/
theorem dualDraw_toNat (s0 s1 : U64) : (dualDraw s0 s1).toNat = 2 ^ 32 * (perm s0).toNat + (perm s1).toNat := by
  rw [dualDraw_eq_append, BitVec.toNat_append, ← Nat.shiftLeft_add_eq_or_of_lt (perm s1).isLt, Nat.shiftLeft_eq,
    Nat.mul_comm]

/-- A run of commands that answers took its first command and went on with the others. -/
theorem execSeq_cons_inv {i : Instr} {rest : List Instr} {s t : State} (h : execSeq (i :: rest) s = .next t) :
    ∃ u, exec i s = .next u ∧ execSeq rest u = .next t := by
  rw [execSeq] at h
  cases hi : exec i s with
  | next u => rw [hi] at h; exact ⟨u, rfl, h⟩
  | fault r => rw [hi] at h; cases h
  | refused r => rw [hi] at h; cases h

/-- DNEXT on a seeded wrapper leaves its draw in `DRES` (R134). -/
theorem execDnext_res {s t : State} (hs : s.dual.seeded = true) (h : exec .dnext s = .next t) :
    t.dual.res = dualDraw s.dual.state0 s.dual.state1 := by
  obtain ⟨hp, -⟩ := exec_dual_inv rfl h
  cases (execDnext_seeded hp hs).symm.trans h
  rfl

/-- Settles O37: DNEXT's effect on a seeded wrapper with its values in the rule's form, and the example by computation. -/
theorem dnextCompletes : Obligations.DnextCompletes := by
  refine ⟨fun s hp hs => ?seeded, fun s hp hs => execDnext_unseeded hp hs, fun s t h => ?sample⟩
  case seeded =>
    rw [← lcgStep_eq_ofNat, ← lcgStep_eq_ofNat, ← dualDraw_eq_append]
    exact execDnext_seeded hp hs
  case sample =>
    obtain ⟨u, hseed, hnext⟩ := execSeq_cons_inv h
    obtain ⟨v, hdraw, hend⟩ := execSeq_cons_inv hnext
    cases hend
    obtain ⟨hfirst, hsecond⟩ := seedFn_sample
    have hdual := execDseed_inv hseed
    rw [hfirst, hsecond] at hdual
    have hvalue : dualDraw 0x185706B82C2E03F8#64 0x06648A448BE1ACE8#64 = 0xA15C02B7CC917BB5#64 := by decide
    rw [execDnext_res (hdual ▸ rfl) hdraw, hdual, hvalue]

/-- Settles O38: the three cases of DBOUNDED's acceptance with the threshold as an exact integer, and four thresholds. -/
theorem dboundedAcceptance : Obligations.DboundedAcceptance := by
  refine ⟨fun s bound hp hs => execDbounded_unseeded bound hp hs, fun s hp hs => execDbounded_zero hp hs,
    fun s bound hp hs hb => ?accepted, by decide, by decide, by decide, by decide⟩
  rw [← thresh_toNat hb, BitVec.ofNat_toNat, BitVec.setWidth_eq]
  exact execDbounded_accepted hp hs hb

/-- Settles O41, by `execDfootprint_present`. -/
theorem dfootprintCompletes : Obligations.DfootprintCompletes := fun _ hp => execDfootprint_present hp

end Sys2Proof.Machine
end

section
/-! Runs of DNEXT, and of NEXT on two CORE blocks in lockstep (44_dual_stream.md R140, R141). -/

namespace Sys2Proof.Machine

variable {s t : State}

/-- A command that completes is followed by the commands after it. -/
theorem execSeq_cons_of_next {i : Instr} {rest : List Instr} (h : exec i s = .next t) :
    execSeq (i :: rest) s = execSeq rest t := by
  rw [execSeq, h]

/-- DNEXTs on a seeded wrapper step each generator as often, and leave the draw of the states before the last one
(R134). -/
theorem execSeq_replicate_dnext (hp : s.dualPresent = true) (hs : s.dual.seeded = true) (n : ℕ) :
    execSeq (List.replicate (n + 1) .dnext) s = .next (s.mapDual fun r =>
      { r with
        state0 := stateAfter r.state0 r.inc0 (n + 1), state1 := stateAfter r.state1 r.inc1 (n + 1)
        res := dualDraw (stateAfter r.state0 r.inc0 n) (stateAfter r.state1 r.inc1 n), err := .ok }) := by
  induction n generalizing s with
  | zero => exact execSeq_cons_of_next (i := .dnext) (execDnext_seeded hp hs)
  | succ n ih =>
    rw [List.replicate_succ, execSeq_cons_of_next (i := .dnext) (execDnext_seeded hp hs), ih]
    · simp only [State.mapDual, stateAfter_succ']
    · exact hp
    · exact hs

/-- NEXTs on a seeded CORE block step the generator as often, and leave the output of the state before the last one
(R84, R90). -/
theorem execSeq_replicate_next (hs : s.core.seeded = true) (n : ℕ) :
    execSeq (List.replicate (n + 1) .next) s = .next (s.mapCore fun r =>
      { r with
        state := stateAfter r.state r.inc (n + 1), res := zext64 (perm (stateAfter r.state r.inc n)), err := .ok }) := by
  induction n generalizing s with
  | zero => exact execSeq_cons_of_next (i := .next) (execNext_seeded hs)
  | succ n ih =>
    rw [List.replicate_succ, execSeq_cons_of_next (i := .next) (execNext_seeded hs), ih]
    · simp only [State.mapCore, stateAfter_succ']
    · exact hs

/-- Settles O42: the runs after DSEED and after the two SEEDs, and the wrapper's draw is the concatenation of the two
outputs by its definition. -/
theorem concatenationOfTwoCores : Obligations.ConcatenationOfTwoCores := by
  intro s sx sy seed1 seed2 sel1 sel2 n hp hn
  obtain ⟨m, rfl⟩ := Nat.exists_eq_add_of_le' hn
  have hdual (u : State) (hu : u.dualPresent = true) :=
    (execSeq_cons_of_next (i := .dseed seed1 seed2 sel1 sel2) (execDseed_present seed1 seed2 sel1 sel2 hu)).trans
      (execSeq_replicate_dnext (s := u.mapDual _) hu rfl m)
  have hcore (u : State) (seed sel : U64) := (execSeq_cons_of_next (i := .seed seed sel) (s := u) rfl).trans
    (execSeq_replicate_next (s := u.mapCore _) rfl m)
  exact ⟨_, _, _, hdual s hp, hcore sx seed1 sel1, hcore sy seed2 (correct sel1 sel2), rfl, rfl, rfl⟩

/-- Settles O43: each generator with an odd increment is back exactly after multiples of 2^64 steps. -/
theorem wrapperPeriod : Obligations.WrapperPeriod := by
  intro s n hp hs hodd0 hodd1
  cases n with
  | zero => exact ⟨s, rfl, by simp⟩
  | succ n =>
    refine ⟨_, execSeq_replicate_dnext hp hs n, ?_⟩
    rw [mapDual_dual, stateAfter_eq_self_iff hodd0, stateAfter_eq_self_iff hodd1, and_self]

end Sys2Proof.Machine
end

section
/-! A move for one block neither reads nor writes the other (44_dual_stream.md R130, 60_exceptions.md R163). -/

namespace Sys2Proof.Machine

variable {s t : State}

/-- A CORE command does the same whatever the wrapper's registers hold (R130, R163). -/
theorem exec_core_any_dual {i : Instr} (hi : i.port = .core) (h : exec i s = .next t) (d : DualRegs) :
    exec i { s with dual := d } = .next { t with dual := d } := by
  cases i with
  | seed seed sel => cases h; rfl
  | next =>
    cases hs : s.core.seeded with
    | true => cases (execNext_seeded hs).symm.trans h; exact execNext_seeded hs
    | false => cases (execNext_unseeded hs).symm.trans h; exact execNext_unseeded hs
  | bounded bound =>
    cases hs : s.core.seeded with
    | false => cases (execBounded_unseeded bound hs).symm.trans h; exact execBounded_unseeded bound hs
    | true =>
      by_cases hb : bound = 0#32
      · subst hb
        cases (execBounded_zero hs).symm.trans h
        exact execBounded_zero hs
      · cases (execBounded_accepted hs hb).symm.trans h
        exact execBounded_accepted hs hb
  | footprint => cases h; rfl
  | rdstate => cases h; rfl
  | rdinc => cases h; rfl
  | dseed _ _ _ _ => cases hi
  | dnext => cases hi
  | dbounded _ => cases hi
  | dfootprint => cases hi

/-- A DUAL command does the same whatever the CORE block's registers hold (R130, R163). -/
theorem exec_dual_any_core {i : Instr} (hi : i.port = .dual) (h : exec i s = .next t) (r : CoreRegs) :
    exec i { s with core := r } = .next { t with core := r } := by
  obtain ⟨hp, -⟩ := exec_dual_inv hi h
  cases i with
  | seed _ _ => cases hi
  | next => cases hi
  | bounded _ => cases hi
  | footprint => cases hi
  | rdstate => cases hi
  | rdinc => cases hi
  | dseed seed1 seed2 sel1 sel2 =>
    cases (execDseed_present seed1 seed2 sel1 sel2 hp).symm.trans h
    exact execDseed_present seed1 seed2 sel1 sel2 hp
  | dnext =>
    cases hs : s.dual.seeded with
    | true => cases (execDnext_seeded hp hs).symm.trans h; exact execDnext_seeded hp hs
    | false => cases (execDnext_unseeded hp hs).symm.trans h; exact execDnext_unseeded hp hs
  | dbounded bound =>
    cases hs : s.dual.seeded with
    | false => cases (execDbounded_unseeded bound hp hs).symm.trans h; exact execDbounded_unseeded bound hp hs
    | true =>
      by_cases hb : bound = 0#64
      · subst hb
        cases (execDbounded_zero hp hs).symm.trans h
        exact execDbounded_zero hp hs
      · cases (execDbounded_accepted hp hs hb).symm.trans h
        exact execDbounded_accepted hp hs hb
  | dfootprint => cases (execDfootprint_present hp).symm.trans h; exact execDfootprint_present hp

/-- The acceptance of a command on the CORE port leaves the wrapper and does the same whatever it holds (R130, R163). -/
theorem acceptCommand_core_independent (cmd : Command) (s : State) (d : DualRegs) :
    ∃ r, acceptCommand .core cmd s = .next { s with core := r } ∧
      acceptCommand .core cmd { s with dual := d } = .next { s with core := r, dual := d } := by
  cases hd : decode .core cmd with
  | ok i =>
    obtain ⟨r, hr, -⟩ := exec_core_cases s (decode_port hd)
    exact ⟨r, (acceptCommand_ok hd).trans hr, (acceptCommand_ok hd).trans (exec_core_any_dual (decode_port hd) hr d)⟩
  | error e => exact ⟨_, acceptCommand_error hd, acceptCommand_error hd⟩

/-- The acceptance of a command on the DUAL port leaves the CORE block and does the same whatever it holds (R130,
R163). -/
theorem acceptCommand_dual_independent (cmd : Command) (hp : s.dualPresent = true) (r : CoreRegs) :
    ∃ d, acceptCommand .dual cmd s = .next { s with dual := d } ∧
      acceptCommand .dual cmd { s with core := r } = .next { s with core := r, dual := d } := by
  cases hd : decode .dual cmd with
  | ok i =>
    obtain ⟨d, hr, -⟩ := exec_dual_cases (decode_port hd) hp
    exact ⟨d, (acceptCommand_ok hd).trans hr, (acceptCommand_ok hd).trans (exec_dual_any_core (decode_port hd) hr r)⟩
  | error e => exact ⟨_, acceptCommand_error hd, acceptCommand_error hd⟩

/-- The CORE block's own transition does the same whatever the wrapper holds (R130, R163). -/
theorem ownTransition_core_any_dual (s : State) (d : DualRegs) :
    ownTransition .core { s with dual := d } = { ownTransition .core s with dual := d } := by
  cases hb : s.core.busy with
  | true => rw [ownTransition_core_busy hb, ownTransition_core_busy (s := { s with dual := d }) hb]; rfl
  | false => rw [ownTransition_core_idle hb, ownTransition_core_idle (s := { s with dual := d }) hb]

/-- The wrapper's own transition does the same whatever the CORE block holds (R130, R163). -/
theorem ownTransition_dual_any_core (s : State) (r : CoreRegs) :
    ownTransition .dual { s with core := r } = { ownTransition .dual s with core := r } := by
  cases hb : s.dual.busy with
  | true => rw [ownTransition_dual_busy hb, ownTransition_dual_busy (s := { s with core := r }) hb]; rfl
  | false => rw [ownTransition_dual_idle hb, ownTransition_dual_idle (s := { s with core := r }) hb]

/-- A move for the CORE block leaves the wrapper and does the same whatever it holds (R130, R163). -/
theorem step_core_move_independent {m : HostInput} {rest : List HostInput} (hin : s.inputs = m :: rest)
    (hm : m.port = .core) (d : DualRegs) :
    ∃ t, step s = .next t ∧ t.dual = s.dual ∧ step { s with dual := d } = .next { t with dual := d } := by
  cases m with
  | command port cmd =>
    obtain rfl : port = .core := hm
    cases hb : s.core.busy with
    | true =>
      refine ⟨_, step_command_held hin rfl hb, ownTransition_core_dual, ?_⟩
      rw [step_command_held (s := { s with dual := d }) hin rfl hb, ownTransition_core_any_dual]
    | false =>
      obtain ⟨r, hr, hr'⟩ := acceptCommand_core_independent cmd { s with inputs := rest } d
      exact ⟨_, (step_command_taken hin rfl hb).trans hr, rfl,
        (step_command_taken (s := { s with dual := d }) hin rfl hb).trans hr'⟩
  | reset port presented =>
    obtain rfl : port = .core := hm
    exact ⟨_, step_reset hin rfl, rfl, step_reset (s := { s with dual := d }) hin rfl⟩
  | read reg =>
    cases reg with
    | res => exact ⟨_, step_read hin rfl, rfl, step_read (s := { s with dual := d }) hin rfl⟩
    | status => exact ⟨_, step_read hin rfl, rfl, step_read (s := { s with dual := d }) hin rfl⟩
    | dres => cases hm
    | dstatus => cases hm
  | pass port =>
    obtain rfl : port = .core := hm
    refine ⟨_, step_pass hin rfl, ownTransition_core_dual, ?_⟩
    rw [step_pass (s := { s with dual := d }) hin rfl]
    exact congrArg _ (ownTransition_core_any_dual { s with inputs := rest } d)

/-- A move for a wrapper that is there leaves the CORE block and does the same whatever it holds (R130, R163). -/
theorem step_dual_move_independent {m : HostInput} {rest : List HostInput} (hin : s.inputs = m :: rest)
    (hm : m.port = .dual) (hp : s.dualPresent = true) (r : CoreRegs) :
    ∃ t, step s = .next t ∧ t.core = s.core ∧ step { s with core := r } = .next { t with core := r } := by
  cases m with
  | command port cmd =>
    obtain rfl : port = .dual := hm
    cases hb : s.dual.busy with
    | true =>
      refine ⟨_, step_command_held hin hp hb, ownTransition_dual_core, ?_⟩
      rw [step_command_held (s := { s with core := r }) hin hp hb, ownTransition_dual_any_core]
    | false =>
      obtain ⟨d, hd, hd'⟩ := acceptCommand_dual_independent (s := { s with inputs := rest }) cmd hp r
      exact ⟨_, (step_command_taken hin hp hb).trans hd, rfl,
        (step_command_taken (s := { s with core := r }) hin hp hb).trans hd'⟩
  | reset port presented =>
    obtain rfl : port = .dual := hm
    exact ⟨_, step_reset hin hp, rfl, step_reset (s := { s with core := r }) hin hp⟩
  | read reg =>
    cases reg with
    | res => cases hm
    | status => cases hm
    | dres => exact ⟨_, step_read hin hp, rfl, step_read (s := { s with core := r }) hin hp⟩
    | dstatus => exact ⟨_, step_read hin hp, rfl, step_read (s := { s with core := r }) hin hp⟩
  | pass port =>
    obtain rfl : port = .dual := hm
    refine ⟨_, step_pass hin hp, ownTransition_dual_core, ?_⟩
    rw [step_pass (s := { s with core := r }) hin hp]
    exact congrArg _ (ownTransition_dual_any_core { s with inputs := rest } r)

/-- Settles O49, from the moves for each block. -/
theorem blocksAreIndependent : Obligations.BlocksAreIndependent :=
  ⟨fun _ d _ _ hin hm => step_core_move_independent hin hm d,
    fun _ r _ _ hin hm hp => step_dual_move_independent hin hm hp r⟩

end Sys2Proof.Machine
end

section
/-! DBOUNDED's acceptance and its draws, step by step (44_dual_stream.md R136, R137). -/

namespace Sys2Proof.Machine

variable {s : State} {r : DualRegs}

/-- The wrapper's registers right after the acceptance of a DBOUNDED (R136). -/
def DualRegs.began (r : DualRegs) (bound : U64) : DualRegs :=
  { r with pbound := bound, pthresh := thresh bound, busy := true, err := .ok }

/-- The opcode of DBOUNDED decodes to DBOUNDED of the first operand field (R52, R54). -/
theorem decode_dbounded {c : Command} (hop : c.op = 0x13#8) : decode .dual c = .ok (.dbounded c.a) :=
  decode_eq_ok_iff.mpr ⟨rfl, hop.symm, rfl⟩

/-- The step that takes a DBOUNDED with a nonzero bound on a seeded idle wrapper is its acceptance (R136). -/
theorem step_dbounded_accepted {c : Command} {rest : List HostInput} (hp : s.dualPresent = true)
    (hs : s.dual.seeded = true) (hidle : s.dual.busy = false) (hb : c.a ≠ 0#64) (hop : c.op = 0x13#8)
    (hin : s.inputs = .command .dual c :: rest) :
    step s = .next { s with inputs := rest, dual := s.dual.began c.a } :=
  (step_command_ok hin hp hidle (decode_dbounded hop)).trans (execDbounded_accepted hp hs hb)

/-- One draw in the rule's form, on numbers (R137). -/
theorem drawDual_eq_ofNat (hb : r.pbound ≠ 0#64) :
    drawDual r =
      if r.pthresh.toNat ≤ 2 ^ 32 * (perm r.state0).toNat + (perm r.state1).toNat then
        { r with
          state0 := lcgStep r.state0 r.inc0
          state1 := lcgStep r.state1 r.inc1
          res := BitVec.ofNat 64 ((2 ^ 32 * (perm r.state0).toNat + (perm r.state1).toNat) % r.pbound.toNat)
          busy := false }
      else
        { r with state0 := lcgStep r.state0 r.inc0, state1 := lcgStep r.state1 r.inc1 } := by
  rw [← dualDraw_toNat, ← reduce_toNat _ hb, BitVec.ofNat_toNat, BitVec.setWidth_eq]
  split
  next haccept => exact drawDual_accepted ((accept_iff _ _).mpr haccept)
  next hreject => exact drawDual_rejected ((accept_eq_false_iff _ _).mpr (Nat.lt_of_not_le hreject))

/-- The host's next move, if it has one, leaves the wrapper to its own transition without moving past itself: it is a
command waiting for the DUAL port, or there is none and no draw of the CORE block comes first (R176; log 3). -/
def State.dualHeld (s : State) : Prop :=
  s.inputs = [] ∧ s.core.busy = false ∨ ∃ cmd rest, s.inputs = .command .dual cmd :: rest

/-- While the host leaves the busy wrapper to itself, a step is one draw and nothing else (R137, R176). -/
theorem step_dualHeld (hp : s.dualPresent = true) (hb : s.dual.busy = true) (hheld : s.dualHeld) :
    step s = .next { s with dual := drawDual s.dual } := by
  rcases hheld with ⟨hin, hcore⟩ | ⟨cmd, rest, hin⟩
  · simp [step_nil hin, freeRun, hcore, hp, ownTransition_dual_busy hb, State.mapDual]
  · rw [step_command_held hin hp hb, ownTransition_dual_busy hb, State.mapDual]

/-- Settles O39: the step is one draw in all three situations of the host. -/
theorem wrapperDraw : Obligations.WrapperDraw := by
  intro s rest later hp hb hbound hsituation
  rw [← drawDual_eq_ofNat hbound]
  rcases hsituation with ⟨hin, rfl⟩ | ⟨⟨c, hin⟩, rfl⟩ | ⟨hin, hcore, rfl⟩
  · rw [step_pass hin hp]
    exact congrArg _ (ownTransition_dual_busy (s := { s with inputs := later }) hb)
  · exact step_dualHeld hp hb (.inr ⟨c, rest, hin⟩)
  · rw [step_dualHeld hp hb (.inl ⟨hin, hcore⟩), ← hin]

end Sys2Proof.Machine
end

section
/-! The search of the atomic function, and the run of a wrapper left to itself (44_dual_stream.md R137). -/

namespace Sys2Proof.Machine

variable {s t : State} {r fin : DualRegs} {s0 inc0 s1 inc1 bound res last0 last1 : U64} {fuel : ℕ}

/-- The atomic function answers with its first draw if this is accepted (R137). -/
theorem dboundedFn_succ_accepted (h : accept (dualDraw s0 s1) (thresh bound) = true) :
    dboundedFn (fuel + 1) s0 inc0 s1 inc1 bound =
      some (reduce (dualDraw s0 s1) bound, lcgStep s0 inc0, lcgStep s1 inc1) :=
  if_pos h

/-- The atomic function goes on after a rejected draw (R137). -/
theorem dboundedFn_succ_rejected (h : accept (dualDraw s0 s1) (thresh bound) = false) :
    dboundedFn (fuel + 1) s0 inc0 s1 inc1 bound = dboundedFn fuel (lcgStep s0 inc0) inc0 (lcgStep s1 inc1) inc1 bound :=
  if_neg (by simp [h])

/-- With an accepted draw among the first `fuel` ones the atomic function answers, with a result below the bound
(R137). -/
theorem exists_dboundedFn_of_accept (hb : bound ≠ 0#64) {k : ℕ} (hk : k < fuel)
    (haccept : accept (dualDraw (stateAfter s0 inc0 k) (stateAfter s1 inc1 k)) (thresh bound) = true) :
    ∃ res last0 last1, dboundedFn fuel s0 inc0 s1 inc1 bound = some (res, last0, last1) ∧ res.toNat < bound.toNat := by
  induction fuel generalizing s0 s1 k with
  | zero => exact absurd hk (Nat.not_lt_zero k)
  | succ fuel ih =>
    cases hfirst : accept (dualDraw s0 s1) (thresh bound) with
    | true => exact ⟨_, _, _, dboundedFn_succ_accepted hfirst, reduce_lt _ hb⟩
    | false =>
      rw [dboundedFn_succ_rejected hfirst]
      cases k with
      | zero => exact absurd haccept (by simp [stateAfter, hfirst])
      | succ k =>
        rw [stateAfter_succ', stateAfter_succ'] at haccept
        exact ih (Nat.lt_of_succ_lt_succ hk) haccept

/-- Within 2^64 draws the atomic function answers: gen0 with its odd increment comes to state 2^64 - 1, whose output puts
the draw into the upper half, above every threshold (R137). -/
theorem exists_dboundedFn (hodd : inc0.getLsbD 0 = true) (hb : bound ≠ 0#64) :
    ∃ res last0 last1, dboundedFn (2 ^ 64) s0 inc0 s1 inc1 bound = some (res, last0, last1) ∧
      res.toNat < bound.toNat := by
  obtain ⟨k, hk, hstate⟩ := exists_stateAfter_eq hodd s0 0xFFFFFFFFFFFFFFFF#64
  refine exists_dboundedFn_of_accept hb hk ?_
  have hhalf := two_mul_thresh_lt hb
  rw [accept_iff, dualDraw_toNat, hstate, perm_allOnes, BitVec.toNat_ofNat]
  omega

/-- The wrapper's registers after the draw that ends a DBOUNDED, with the atomic function's answer (R137). -/
def DualRegs.ended (r : DualRegs) (res last0 last1 : U64) : DualRegs :=
  { r with state0 := last0, state1 := last1, res := res, busy := false }

/-- A DBOUNDED is in progress, its pending threshold that of its bound, and the atomic function, asked for the answer
from here with this fuel, gives the registers `fin`. -/
structure DualRegs.Drawing (r : DualRegs) (fuel : ℕ) (fin : DualRegs) : Prop where
  busy : r.busy = true
  pthresh : r.pthresh = thresh r.pbound
  answer : ∃ res last0 last1, dboundedFn fuel r.state0 r.inc0 r.state1 r.inc1 r.pbound = some (res, last0, last1) ∧
    fin = r.ended res last0 last1

/-- An accepted DBOUNDED has an answer of the atomic function, below its bound, and is in progress towards it (R136,
R137). -/
theorem exists_dboundedFn_began (hodd : r.inc0.getLsbD 0 = true) (hb : bound ≠ 0#64) :
    ∃ res last0 last1,
      dboundedFn (2 ^ 64) r.state0 r.inc0 r.state1 r.inc1 bound = some (res, last0, last1) ∧
      res.toNat < bound.toNat ∧ (r.began bound).Drawing (2 ^ 64) ((r.began bound).ended res last0 last1) := by
  obtain ⟨res, last0, last1, hfn, hlt⟩ := exists_dboundedFn hodd hb
  exact ⟨res, last0, last1, hfn, hlt, rfl, rfl, res, last0, last1, hfn, rfl⟩

/-- Each draw ends the DBOUNDED with the atomic function's answer, or leaves it in progress towards the same answer with
one unit of fuel less (R137). -/
theorem DualRegs.Drawing.drawDual_cases (h : r.Drawing fuel fin) :
    ∃ less, fuel = less + 1 ∧ (drawDual r = fin ∧ fin.busy = false ∨ (drawDual r).Drawing less fin) := by
  obtain ⟨hb, hthresh, res, last0, last1, hfn, rfl⟩ := h
  cases fuel with
  | zero => cases hfn
  | succ fuel =>
    refine ⟨fuel, rfl, ?_⟩
    cases haccept : accept (dualDraw r.state0 r.state1) (thresh r.pbound) with
    | true =>
      rw [dboundedFn_succ_accepted haccept] at hfn
      cases hfn
      exact .inl ⟨drawDual_accepted (hthresh ▸ haccept), rfl⟩
    | false =>
      rw [dboundedFn_succ_rejected haccept] at hfn
      rw [drawDual_rejected (hthresh ▸ haccept)]
      exact .inr ⟨hb, hthresh, res, last0, last1, hfn, rfl⟩

/-- Left to itself the wrapper ends its DBOUNDED with the atomic function's answer, one draw per step (R137). -/
theorem DualRegs.Drawing.runSteps_ended (h : s.dual.Drawing fuel fin) (hp : s.dualPresent = true) (hheld : s.dualHeld) :
    ∃ k, 1 ≤ k ∧ k ≤ fuel ∧ runSteps k s = .next { s with dual := fin } := by
  induction fuel generalizing s with
  | zero =>
    obtain ⟨less, hless, -⟩ := h.drawDual_cases
    cases hless
  | succ fuel ih =>
    have hstep := step_dualHeld hp h.busy hheld
    obtain ⟨less, hless, hdraw⟩ := h.drawDual_cases
    obtain rfl : fuel = less := Nat.succ.inj hless
    rcases hdraw with ⟨hend, -⟩ | hlater
    · exact ⟨1, le_rfl, fuel.succ_pos, by rw [runSteps_succ_of_next hstep, hend, runSteps_zero]⟩
    · obtain ⟨k, hk, hkle, hrun⟩ := ih (s := { s with dual := drawDual s.dual }) hlater hp hheld
      exact ⟨k + 1, k.succ_pos, Nat.succ_le_succ hkle, (runSteps_succ_of_next hstep).trans hrun⟩

/-- Settles O40: the acceptance, then the draws of the wrapper left to itself. -/
theorem dboundedRunIsAtomic : Obligations.DboundedRunIsAtomic := by
  rintro s c rest hp hs hodd0 - hidle hop hb hin hrest
  obtain ⟨res, last0, last1, hfn, hlt, hdrawing⟩ := exists_dboundedFn_began (r := s.dual) hodd0 hb
  have hstep := step_dbounded_accepted hp hs hidle hb hop hin
  obtain ⟨k, hk, hkle, hrun⟩ := hdrawing.runSteps_ended
    (s := { s with inputs := rest, dual := s.dual.began c.a }) hp hrest
  exact ⟨k, res, last0, last1, hk, hkle, hfn, hlt, (runSteps_succ_of_next hstep).trans hrun⟩

end Sys2Proof.Machine
end

section
/-! A DBOUNDED in progress among other moves of the host (44_dual_stream.md R137, 20_memory.md R43, 70_reset_and_hazards.md
R176). -/

namespace Sys2Proof.Machine

variable {s t : State} {r fin : DualRegs}

/-- The wrapper draws towards the registers `fin`, or has ended with them: what it can show from the acceptance of a
DBOUNDED to its end. -/
def DualRegs.OnTheWay (r fin : DualRegs) : Prop :=
  r = fin ∧ r.busy = false ∨ ∃ fuel, r.Drawing fuel fin

/-- On the way the wrapper is not busy at the end only. -/
theorem DualRegs.OnTheWay.eq_of_not_busy (h : r.OnTheWay fin) (hb : r.busy = false) : r = fin := by
  rcases h with ⟨hend, -⟩ | ⟨fuel, hdrawing⟩
  · exact hend
  · exact absurd hb (by simp [hdrawing.busy])

/-- A draw of the busy wrapper stays on the way. -/
theorem DualRegs.OnTheWay.drawDual_onTheWay (h : r.OnTheWay fin) (hb : r.busy = true) : (drawDual r).OnTheWay fin := by
  rcases h with ⟨-, hidle⟩ | ⟨fuel, hdrawing⟩
  · exact absurd hb (by simp [hidle])
  · obtain ⟨less, -, ⟨hend, hidle⟩ | hlater⟩ := hdrawing.drawDual_cases
    · exact .inl ⟨hend, hend ▸ hidle⟩
    · exact .inr ⟨less, hlater⟩

/-- What leaves the wrapper as it is or lets it draw while busy stays on the way. -/
theorem DualRegs.OnTheWay.of_kept_or_drew (h : s.dual.OnTheWay fin)
    (ht : t.dual = s.dual ∨ s.dual.busy = true ∧ t.dual = drawDual s.dual) : t.dual.OnTheWay fin := by
  rcases ht with hkept | ⟨hb, hdraw⟩
  · rwa [hkept]
  · rw [hdraw]
    exact h.drawDual_onTheWay hb

/-- Steps of the busy wrapper, none of them its reset, stay on the way, whatever the host does (R137, R176). -/
theorem DualRegs.OnTheWay.runSteps_onTheWay {n : ℕ} (h : s.dual.OnTheWay fin) (hrun : runSteps n s = .next t)
    (hbusy : ∀ j u, j < n → runSteps j s = .next u →
      u.dual.busy = true ∧ ∀ presented later, u.inputs ≠ .reset .dual presented :: later) :
    t.dual.OnTheWay fin := by
  induction n generalizing s with
  | zero => cases hrun; exact h
  | succ n ih =>
    obtain ⟨hb, hreset⟩ := hbusy 0 s n.succ_pos rfl
    cases hstep : step s with
    | fault e => rw [runSteps, hstep] at hrun; cases hrun
    | refused e => rw [runSteps, hstep] at hrun; cases hrun
    | next u =>
      rw [runSteps_succ_of_next hstep] at hrun
      have hu := h.of_kept_or_drew ((step_dual_while_busy hstep hb hreset).imp_right (And.intro hb))
      exact ih hu hrun fun j v hj hv => hbusy (j + 1) v (Nat.succ_lt_succ hj) ((runSteps_succ_of_next hstep).trans hv)

/-- Settles O57: after the acceptance the wrapper stays on the way, and of the registers there only those at the end are
not busy. -/
theorem dboundedEndIsAtomic : Obligations.DboundedEndIsAtomic := by
  rintro s t c rest n hp hs hodd0 - hidle hop hb hin hrun hend hbusy
  obtain ⟨res, last0, last1, hfn, hlt, hdrawing⟩ := exists_dboundedFn_began (r := s.dual) hodd0 hb
  have hstep := step_dbounded_accepted hp hs hidle hb hop hin
  simp only [runSteps_succ_of_next hstep] at hrun hbusy
  have hway : (s.dual.began c.a).OnTheWay ((s.dual.began c.a).ended res last0 last1) := .inr ⟨_, hdrawing⟩
  exact ⟨res, last0, last1, hfn, hlt, (hway.runSteps_onTheWay hrun hbusy).eq_of_not_busy hend⟩

/-- A CORE block that is left to itself comes to its wait: it ends the BOUNDED in progress, if there is one (R106). -/
theorem exists_runSteps_core_idle (hinv : CoreInv s.core) (hheld : s.coreHeld) :
    ∃ k r, r.busy = false ∧ runSteps k s = .next { s with core := r } := by
  cases hb : s.core.busy with
  | false => exact ⟨0, s.core, hb, rfl⟩
  | true =>
    obtain ⟨hs, -, hbound, hthresh, -⟩ := hinv.pending hb
    obtain ⟨k, -, hfirst⟩ := exists_firstAccepted (hinv.odd hs) (hthresh ▸ two_mul_thresh_lt hbound)
    exact ⟨_, s.core.ended k, rfl, hfirst.runSteps_ended (i := 0) hb hheld rfl k.zero_le⟩

/-- A move of the host that neither commands nor resets the wrapper: any for the CORE block, a read or a wait. -/
def HostInput.SparesDual (m : HostInput) : Prop :=
  m.port = .core ∨ (∃ reg, m = .read reg) ∨ ∃ p, m = .pass p

/-- Such a move is used up after some steps, which leave the wrapper as it is or make one draw: a CORE command first waits
for the CORE block's draws (R43, R137, R176). -/
theorem exists_runSteps_move {m : HostInput} {rest : List HostInput} (hinv : CoreInv s.core)
    (hp : s.dualPresent = true) (hin : s.inputs = m :: rest) (hm : m.SparesDual) :
    ∃ k t, runSteps k s = .next t ∧ t.inputs = rest ∧
      (t.dual = s.dual ∨ s.dual.busy = true ∧ t.dual = drawDual s.dual) := by
  have hport (p : Port) : s.hasPort p = true := by cases p <;> simp [hp]
  cases m with
  | command p cmd =>
    obtain rfl : p = .core := by simpa [HostInput.SparesDual, HostInput.port] using hm
    obtain ⟨k, r, hidle, hrun⟩ := exists_runSteps_core_idle hinv (.inr ⟨cmd, rest, hin⟩)
    obtain ⟨r', hr', -⟩ := acceptCommand_core_independent cmd { s with inputs := rest, core := r } s.dual
    have hstep := (step_command_taken (s := { s with core := r }) hin rfl hidle).trans hr'
    exact ⟨k + 1, _, (runSteps_add hrun).trans (runSteps_succ_of_next hstep), rfl, .inl rfl⟩
  | reset p presented =>
    obtain rfl : p = .core := by simpa [HostInput.SparesDual, HostInput.port] using hm
    exact ⟨1, _, runSteps_succ_of_next (step_reset hin rfl), rfl, .inl rfl⟩
  | read reg => exact ⟨1, _, runSteps_succ_of_next (step_read hin (hport _)), rfl, .inl rfl⟩
  | pass p =>
    refine ⟨1, _, runSteps_succ_of_next (step_pass hin (hport p)), ownTransition_inputs _ _, ?_⟩
    cases p with
    | core => exact .inl ownTransition_core_dual
    | dual =>
      rw [ownTransition_dual_dual]
      split
      · exact .inr ⟨‹_›, rfl⟩
      · exact .inl rfl

/-- A run keeps the invariant and the wrapper's presence (R8, R29, R33). -/
theorem runSteps_inv_present {k : ℕ} (hinv : s.Inv) (hp : s.dualPresent = true) (hrun : runSteps k s = .next t) :
    t.Inv ∧ t.dualPresent = true :=
  runSteps_keeps (P := fun u => u.Inv ∧ u.dualPresent = true)
    (fun u v hu hstep => ⟨stepKeepsInvariant u v hu.1 hstep, (step_dualPresent hstep).trans hu.2⟩) ⟨hinv, hp⟩ hrun

/-- Such moves, one after another, are used up with the wrapper on the way. -/
theorem DualRegs.OnTheWay.exists_runSteps_moves {moves later : List HostInput} (h : s.dual.OnTheWay fin) (hinv : s.Inv)
    (hp : s.dualPresent = true) (hin : s.inputs = moves ++ later) (hmoves : ∀ m ∈ moves, m.SparesDual) :
    ∃ k t, runSteps k s = .next t ∧ t.inputs = later ∧ t.dual.OnTheWay fin := by
  induction moves generalizing s with
  | nil => exact ⟨0, s, rfl, hin, h⟩
  | cons m moves ih =>
    obtain ⟨k, u, hrun, huin, hu⟩ := exists_runSteps_move hinv.core hp hin (hmoves m List.mem_cons_self)
    obtain ⟨huinv, hup⟩ := runSteps_inv_present hinv hp hrun
    obtain ⟨k', t, hrun', ht⟩ :=
      ih (h.of_kept_or_drew hu) huinv hup huin fun x hx => hmoves x (List.mem_cons_of_mem m hx)
    exact ⟨k + k', t, (runSteps_add hrun).trans hrun', ht⟩

/-- A silent host leaves the wrapper to itself once the CORE block has ended a BOUNDED in progress (log 3), and a host with
a command waiting on the DUAL port does at once (R176). -/
theorem exists_runSteps_dualHeld (hinv : CoreInv s.core)
    (h : s.inputs = [] ∨ ∃ cmd rest, s.inputs = .command .dual cmd :: rest) :
    ∃ k r, runSteps k s = .next { s with core := r } ∧ State.dualHeld { s with core := r } := by
  rcases h with hin | hin
  · obtain ⟨k, r, hidle, hrun⟩ := exists_runSteps_core_idle hinv (.inl hin)
    exact ⟨k, r, hrun, .inl ⟨hin, hidle⟩⟩
  · exact ⟨0, s.core, rfl, .inr hin⟩

/-- On the way the wrapper reaches its end when it is left to itself (R137). -/
theorem DualRegs.OnTheWay.exists_runSteps_ended (h : s.dual.OnTheWay fin) (hp : s.dualPresent = true)
    (hheld : s.dualHeld) : ∃ k, runSteps k s = .next { s with dual := fin } := by
  rcases h with ⟨rfl, -⟩ | ⟨fuel, hdrawing⟩
  · exact ⟨0, rfl⟩
  · obtain ⟨k, -, -, hrun⟩ := hdrawing.runSteps_ended hp hheld
    exact ⟨k, hrun⟩

/-- Settles O56: the acceptance, then the host's moves with the wrapper on the way, then the draws of a CORE block that a
silent host lets go first, then the draws that are left. -/
theorem dboundedEndsAmongHostMoves : Obligations.DboundedEndsAmongHostMoves := by
  intro s c moves later hinv hp hs hidle hop hb hin hmoves hlater
  obtain ⟨hodd0, -⟩ := hinv.dual.odd hs
  obtain ⟨res, last0, last1, hfn, hlt, hdrawing⟩ := exists_dboundedFn_began (r := s.dual) hodd0 hb
  have haccept := step_dbounded_accepted hp hs hidle hb hop hin
  obtain ⟨k, u, hmovesrun, huin, hu⟩ := DualRegs.OnTheWay.exists_runSteps_moves (.inr ⟨_, hdrawing⟩)
    (stepKeepsInvariant s _ hinv haccept) hp rfl hmoves
  have hrun := (runSteps_succ_of_next haccept).trans hmovesrun
  obtain ⟨huinv, hup⟩ := runSteps_inv_present hinv hp hrun
  obtain ⟨k', r, hwait, hheld⟩ := exists_runSteps_dualHeld huinv.core (huin ▸ hlater)
  obtain ⟨k'', hend⟩ := hu.exists_runSteps_ended (s := { u with core := r }) hup hheld
  exact ⟨k + 1 + (k' + k''), _, res, last0, last1, hfn, hlt,
    (runSteps_add hrun).trans ((runSteps_add hwait).trans hend), huin, rfl⟩

end Sys2Proof.Machine
end

section
/-! The error report is precise and does not stick (60_exceptions.md R150, R159), and a machine with nothing to do holds
its state (70_reset_and_hazards.md R165). -/

namespace Sys2Proof.Machine

variable {s t : State} {i : Instr}

/-- Of the effects on the CORE block only the failure leaves a code other than OK, and it writes nothing else (R150). -/
theorem CoreEffect.eq_of_err_ne_ok {r r' : CoreRegs} (heff : CoreEffect r r') (herr : r'.err ≠ .ok) :
    r' = { r with err := r'.err } := by
  cases heff with
  | failed e he => rfl
  | answered v => exact absurd rfl herr
  | seeded seed sel => exact absurd rfl herr
  | stepped hs => exact absurd rfl herr
  | began bound hs hb => exact absurd rfl herr

/-- Of the effects on the wrapper only the failure leaves a code other than OK, and it writes nothing else (R150). -/
theorem DualEffect.eq_of_err_ne_ok {r r' : DualRegs} (heff : DualEffect r r') (herr : r'.err ≠ .ok) :
    r' = { r with err := r'.err } := by
  cases heff with
  | failed e he => rfl
  | answered v => exact absurd rfl herr
  | seeded seed1 seed2 sel1 sel2 => exact absurd rfl herr
  | stepped hs => exact absurd rfl herr
  | began bound hs hb => exact absurd rfl herr

/-- A CORE command that reports an error has written the code and nothing else (R150). -/
theorem exec_core_error (hi : i.port = .core) (h : exec i s = .next t) (herr : t.core.err ≠ .ok) :
    t = { s with core := { s.core with err := t.core.err } } := by
  obtain ⟨r, rfl, heff⟩ := exec_core_inv hi h
  exact congrArg (fun c : CoreRegs => { s with core := c }) (heff.eq_of_err_ne_ok herr)

/-- A DUAL command that reports an error has written the code and nothing else (R150). -/
theorem exec_dual_error (hi : i.port = .dual) (h : exec i s = .next t) (herr : t.dual.err ≠ .ok) :
    t = { s with dual := { s.dual with err := t.dual.err } } := by
  obtain ⟨-, r, rfl, heff⟩ := exec_dual_inv hi h
  exact congrArg (fun d : DualRegs => { s with dual := d }) (heff.eq_of_err_ne_ok herr)

/-- Settles O33, port by port, from the effects that a command can have. -/
theorem errorReportIsPrecise : Obligations.ErrorReportIsPrecise := by
  intro i s t h herr
  cases hi : i.port with
  | core =>
    rw [hi] at herr
    exact exec_core_error hi h herr
  | dual =>
    rw [hi] at herr
    exact exec_dual_error hi h herr

/-- Settles O34, command by command: no check and no value that a command writes comes from the code of its port, and
whatever its outcome it writes that code anew, so the two sides are equal by evaluation. -/
theorem errorsDoNotStick : Obligations.ErrorsDoNotStick := by
  intro i e s
  cases i with
  | seed seed sel => rfl
  | next => rfl
  | bounded bound => rfl
  | footprint => rfl
  | rdstate => rfl
  | rdinc => rfl
  | dseed seed1 seed2 sel1 sel2 => rfl
  | dnext => rfl
  | dbounded bound => rfl
  | dfootprint => rfl

/-- With neither block busy the machine holds its state (R165). -/
theorem freeRun_idle (hcore : s.core.busy = false) (hdual : s.dual.busy = false) : freeRun s = s := by
  simp [freeRun, hcore, ownTransition_dual_idle hdual]

/-- Settles O46: no move is left, so the step is a free run of two idle blocks. -/
theorem waitingMachineHoldsState : Obligations.WaitingMachineHoldsState := by
  rintro s ⟨hcore, hdual, hin⟩
  rw [step_nil hin, freeRun_idle hcore hdual]

end Sys2Proof.Machine
end

section
/-! Reset in any state, and the end of the hold on a busy port (70_reset_and_hazards.md R170, R171, R174, R176). -/

namespace Sys2Proof.Machine

variable {s u : State} {p : Port} {c : Command} {rest : List HostInput} {k n : ℕ}

/-- Settles O7, port by port: `step_reset` is the whole step, and the block's registers are its reset values by
definition. The CORE block's port is always there, the wrapper's by hypothesis. -/
theorem resetTransition : Obligations.ResetTransition :=
  ⟨fun s _ _ hin => step_reset hin (hasPort_core s), fun _ _ _ hin hp => step_reset hin hp⟩

/-- No draw writes `ERR` (R105). -/
@[simp] theorem drawCore_err (r : CoreRegs) : (drawCore r).err = r.err := by
  unfold drawCore
  split <;> rfl

/-- No draw writes `DERR` (R137). -/
@[simp] theorem drawDual_err (r : DualRegs) : (drawDual r).err = r.err := by
  unfold drawDual
  split <;> rfl

/-- A block's own transition leaves its error code as it is (R105, R137). -/
theorem ownTransition_errOn (p : Port) (s : State) : (ownTransition p s).errOn p = s.errOn p := by
  cases p with
  | core => rw [errOn_core, ownTransition_core_core, apply_ite CoreRegs.err, drawCore_err, ite_self, errOn_core]
  | dual => rw [errOn_dual, ownTransition_dual_dual, apply_ite DualRegs.err, drawDual_err, ite_self, errOn_dual]

/-- A block's own transition leaves each port there or not there (R8). -/
theorem ownTransition_hasPort (p q : Port) (s : State) : (ownTransition p s).hasPort q = s.hasPort q := by
  cases q with
  | core => rfl
  | dual => exact ownTransition_dualPresent

/-- From this state the machine makes `k` steps with the port busy before each, and meanwhile the host's moves and the
port's error code stay as they are (R176). -/
def State.HeldFor (s : State) (p : Port) (k : ℕ) : Prop :=
  ∀ j, j < k → ∃ u, runSteps j s = .next u ∧ u.busyOn p = true ∧ u.inputs = s.inputs ∧ u.errOn p = s.errOn p

/-- A step from a busy port that keeps the host's moves and the error code goes before a hold. -/
theorem State.HeldFor.succ (h : u.HeldFor p k) (hb : s.busyOn p = true) (hstep : step s = .next u)
    (hin : u.inputs = s.inputs) (herr : u.errOn p = s.errOn p) : s.HeldFor p (k + 1) := by
  intro j hj
  cases j with
  | zero => exact ⟨s, rfl, hb, rfl, rfl⟩
  | succ j =>
    obtain ⟨v, hrun, hv, hvin, hverr⟩ := h j (Nat.lt_of_succ_lt_succ hj)
    exact ⟨v, (runSteps_succ_of_next hstep).trans hrun, hv, hvin.trans hin, hverr.trans herr⟩

/-- If a run ends with the port not busy, the hold ends at the first such state, and the next step accepts the command
(R176). -/
theorem exists_heldFor_of_idle (hin : s.inputs = .command p c :: rest) (hp : s.hasPort p = true)
    (hb : s.busyOn p = true) (hidle : ∃ t, runSteps n s = .next t ∧ t.busyOn p = false) :
    ∃ k, 1 ≤ k ∧ k ≤ n ∧ s.HeldFor p k ∧
      ∃ t, runSteps k s = .next t ∧ t.busyOn p = false ∧ t.inputs = s.inputs ∧
        step t = acceptCommand p c { t with inputs := rest } := by
  induction n generalizing s with
  | zero =>
    obtain ⟨t, hrun, ht⟩ := hidle
    cases hrun
    exact absurd hb (by simp [ht])
  | succ n ih =>
    have hstep := step_command_held hin hp hb
    have hkept : (ownTransition p s).inputs = s.inputs := ownTransition_inputs p s
    have hport := (ownTransition_hasPort p p s).trans hp
    have herr := ownTransition_errOn p s
    cases hlater : (ownTransition p s).busyOn p with
    | false =>
      have hnone : (ownTransition p s).HeldFor p 0 := fun j hj => absurd hj j.not_lt_zero
      exact ⟨1, le_rfl, n.succ_pos, hnone.succ hb hstep hkept herr, _, runSteps_succ_of_next hstep, hlater, hkept,
        step_command_taken (hkept.trans hin) hport hlater⟩
    | true =>
      rw [runSteps_succ_of_next hstep] at hidle
      obtain ⟨k, -, hkn, hheld, t, hrun, ht, htin, haccept⟩ := ih (hkept.trans hin) hport hlater hidle
      exact ⟨k + 1, k.succ_pos, Nat.succ_le_succ hkn, hheld.succ hb hstep hkept herr, t,
        (runSteps_succ_of_next hstep).trans hrun, ht, htin.trans hkept, haccept⟩

/-- While a command waits on a busy port, its block comes to its wait within 2^64 draws, on either port (R106, R137). -/
theorem exists_runSteps_idle (hinv : s.Inv) (hp : s.hasPort p = true) (hb : s.busyOn p = true)
    (hin : s.inputs = .command p c :: rest) :
    ∃ n ≤ 2 ^ 64, ∃ t, runSteps n s = .next t ∧ t.busyOn p = false := by
  cases p with
  | core =>
    obtain ⟨hs, -, hbound, hthresh, -⟩ := hinv.core.pending hb
    obtain ⟨k, hk, hfirst⟩ := exists_firstAccepted (hinv.core.odd hs) (hthresh ▸ two_mul_thresh_lt hbound)
    exact ⟨k + 1, hk, _, hfirst.runSteps_ended (i := 0) hb (.inr ⟨c, rest, hin⟩) rfl k.zero_le, rfl⟩
  | dual =>
    obtain ⟨hs, -, hbound, hthresh, -⟩ := hinv.dual.pending hb
    obtain ⟨hodd0, -⟩ := hinv.dual.odd hs
    obtain ⟨res, last0, last1, hfn, -⟩ := exists_dboundedFn (s0 := s.dual.state0) (s1 := s.dual.state1)
      (inc1 := s.dual.inc1) hodd0 hbound
    have hdrawing : s.dual.Drawing (2 ^ 64) (s.dual.ended res last0 last1) :=
      ⟨hb, hthresh, res, last0, last1, hfn, rfl⟩
    obtain ⟨k, -, hk, hrun⟩ := hdrawing.runSteps_ended hp (.inr ⟨c, rest, hin⟩)
    exact ⟨k, hk, _, hrun, rfl⟩

/-- Settles O44: the block comes to its wait within 2^64 draws, and the hold ends when it does so first. -/
theorem busyHoldEnds : Obligations.BusyHoldEnds := by
  intro s p c rest hinv hp hb hin
  obtain ⟨n, hn, hidle⟩ := exists_runSteps_idle hinv hp hb hin
  obtain ⟨k, hk, hkn, hheld, haccepted⟩ := exists_heldFor_of_idle hin hp hb hidle
  exact ⟨k, hk, hkn.trans hn, hheld, haccepted⟩

end Sys2Proof.Machine
end
